-- ==== Sys2Proof/Word.lean ====
section
/-! DEFINITION. The byte type and the data the block takes as input (10_state.md section 1): colours, colour
triples and frames. -/

namespace Sys2Proof

/-- `UInt8` of the spec (R9). -/
abbrev Byte := BitVec 8

/-- `UInt16` of the spec (R9). -/
abbrev Half := BitVec 16

/-- A Color (R10). A literal that omits the alpha channel gets `0xFF` (R11; D15 is the spec's own decision). -/
structure Color where
  r : Byte
  g : Byte
  b : Byte
  a : Byte := 0xFF
  deriving DecidableEq, Repr

/-- One entry of SNAP: a colour triple without alpha (R15). -/
structure Rgb where
  r : Byte
  g : Byte
  b : Byte
  deriving DecidableEq, Repr

/-- A Frame (R12). The block reads `colors` only (R65). -/
structure Frame where
  colors         : List Color
  holdDurationMs : Nat
  usePrevious    : Bool
  deriving DecidableEq, Repr

end Sys2Proof
end

