-- ==== Sys2Proof/Config.lean ====
section
/-! DEFINITION. The configuration of a block instance (R4, R19), its OPEN values as constants without a body, the
fixed dimensions (R6, R47), and the free value of SNAP outside BUSY (U1). -/

namespace Sys2Proof

/-- A parameter set (R4). `spiBitRate` and `latchGap` are named by the spec and used by no rule of the block. -/
structure Params where
  opcode     : Byte
  symZero    : Byte
  symOne     : Byte
  spiBitRate : Nat
  latchGap   : Nat
  deriving DecidableEq, Repr

/-- `MAX_LEDS` (R47): `24 n - 1` must fit the 16-bit length field. -/
def maxLeds : Nat := 2730

/-- `P_OPCODE`, OPEN (R40, D2). -/
opaque Config.openOpcode : Byte

/-- `P_SYM_ZERO`, OPEN (R54, D3). -/
opaque Config.openSymZero : Byte

/-- How far `P_SYM_ONE` lies above `P_SYM_ZERO`, less one, modulo 256: OPEN (D3). Every byte other than
`P_SYM_ZERO` is some offset, so R5 is the only constraint. -/
opaque Config.openSymOneOffset : Fin 255

/-- `P_SPI_BIT_RATE`, OPEN, used by no rule (D25). -/
opaque Config.openSpiBitRate : Nat

/-- `P_LATCH_GAP`, OPEN, used by no rule of the block (D16). -/
opaque Config.openLatchGap : Nat

/-- The contents of SNAP where the spec leaves them unspecified (R15, R22, U1): a free value, one for each draw. -/
opaque Config.freeSnap : Nat → List Rgb

/-- The configuration the machine is built with: nothing but R5 is known of it. DESIGN CHOICE, log 6. -/
def Config.params : Params where
  opcode     := Config.openOpcode
  symZero    := Config.openSymZero
  symOne     := Config.openSymZero + BitVec.ofNat 8 (Config.openSymOneOffset.val + 1)
  spiBitRate := Config.openSpiBitRate
  latchGap   := Config.openLatchGap

end Sys2Proof
end

