-- ==== Sys2Proof/Syntax.lean ====
section
/-! DEFINITION. The operations and tokens of the block: one constructor per row of the operation map (R53). -/

namespace Sys2Proof

/-- One row of spec/opcode_table.json each. -/
inductive Instr where
  /-- CMD_CLOCK_OUT (R39): the 3-byte header, with its length field `L` (R42). -/
  | cmdClockOut (len : Half)
  /-- SYM_ZERO (R55): one payload byte standing for a logical 0. -/
  | symZero
  /-- SYM_ONE (R56): one payload byte standing for a logical 1. -/
  | symOne
  /-- SUBMIT_FRAME (R70): the colour records the transaction carries (R51); the hold and `usePrevious` are not carried. -/
  | submitFrame (colors : List Color)
  /-- EMIT_BYTE (R71): the consumer accepts the byte offered. -/
  | emitByte
  /-- READ_STATUS (R72). -/
  | readStatus
  /-- RESET (R101). -/
  | reset
  /-- ENCODE_CHANNEL_BYTE (R57). -/
  | encodeChannelByte (b : Byte)
  /-- ENCODE_LED (R61). -/
  | encodeLed (c : Color)
  /-- ENCODE_PAYLOAD (R62). -/
  | encodePayload (colors : List Color)
  /-- ENCODE_HEADER (R63). -/
  | encodeHeader (n : Nat)
  /-- ENCODE_FRAME (R64). -/
  | encodeFrame (f : Frame)
  deriving DecidableEq, Repr

end Sys2Proof
end

