-- ==== Sys2Proof/WellFormed.lean ====
section
/-! DEFINITION. Which parameter sets (R5) and which operations are well-formed. -/

namespace Sys2Proof

/-- R5: the two symbols differ. -/
def Params.wf (p : Params) : Bool := p.symZero != p.symOne

/-- A length field a wire frame can carry (R42, R50): in `[23, 65519]`, with `L + 1` a multiple of 24. -/
def lengthLegal (len : Half) : Bool :=
  decide (23 ≤ len.toNat) && decide (len.toNat ≤ 65519) && decide ((len.toNat + 1) % 24 = 0)

/-- The domain of ENCODE_HEADER and of an encodable frame (R13, R63). -/
def encodable (n : Nat) : Bool := decide (1 ≤ n) && decide (n ≤ maxLeds)

/-- A count the 16-bit `led_count` can carry (R51, D21). -/
def countFits (n : Nat) : Bool := decide (n < 65536)

/-- What can be written down as an operation of the block. A frame that is empty or too long CAN be written down,
and faults (R51). The bound on the hold is the width of the model's own operand form (log 3). -/
def Instr.wf : Instr → Bool
  | .cmdClockOut len => lengthLegal len
  | .symZero => true
  | .symOne => true
  | .submitFrame colors => countFits colors.length
  | .emitByte => true
  | .readStatus => true
  | .reset => true
  | .encodeChannelByte _ => true
  | .encodeLed _ => true
  | .encodePayload colors => countFits colors.length
  | .encodeHeader n => encodable n
  | .encodeFrame f => countFits f.colors.length && decide (f.holdDurationMs < 4294967296)

end Sys2Proof
end

