-- ==== Sys2Proof/Decode.lean ====
section
/-! DEFINITION. The ports, the bytes a transaction carries, the decoder (total on any bytes) and the encoder. The
spec gives binary forms to the wire tokens (R39, R55, R56), to the input transaction (R51) and to the STATUS byte
(R18); the selectors and the operand bytes of the internal functions are the model's own (log 1, log 3). -/

namespace Sys2Proof

/-- Where a transaction is made: the four ports of R69, the consumer's view of the byte stream, and one evaluation
point for each internal function, which has no binary selector (R53). -/
inductive Port where
  | frameIn
  | byteOut
  | status
  | rst
  | wire
  | channelByteFn
  | ledFn
  | payloadFn
  | headerFn
  | frameFn
  deriving DecidableEq, Repr

/-- One line of the transaction script (R52): a port and the bytes that go in there. -/
structure Transaction where
  port  : Port
  bytes : List Byte
  deriving DecidableEq, Repr

/-- The transactions offered together in one step (R92); an ordinary step has one. -/
abbrev Slot := List Transaction

/-- Why bytes are no operation of the block. -/
inductive DecodeError where
  /-- The bytes end before the operation does. On the wire the rest may still come (R76). -/
  | short
  /-- Bytes are left over after the operation. -/
  | trailing
  /-- A STATUS word that is never produced: bits 7 to 4 not zero, FCODE 3 or PHASE `0b11` (R17, R18, U4). -/
  | reservedStatus
  /-- A header does not begin with `P_OPCODE` (R50). -/
  | notCommand
  /-- A length field outside the admitted ones (R50). -/
  | badLength
  /-- A payload byte that is neither symbol (R50). -/
  | notSymbol
  /-- An LED count outside the domain of ENCODE_HEADER (R63). -/
  | countOutOfDomain
  /-- A byte that is no truth value. -/
  | notBool
  deriving DecidableEq, Repr

/-! ### Byte order -/

/-- The `k` low bytes of a number, least significant first (R27, R43). -/
def natBytes : Nat → Nat → List Byte
  | 0, _ => []
  | k + 1, v => BitVec.ofNat 8 v :: natBytes k (v / 256)

/-- The number whose bytes, least significant first, are the list. -/
def natOfBytes : List Byte → Nat
  | [] => 0
  | b :: bs => b.toNat + 256 * natOfBytes bs

/-- `L[7:0]` (R43). -/
def lowByte (w : Half) : Byte := w.extractLsb' 0 8

/-- `L[15:8]` (R43). -/
def highByte (w : Half) : Byte := w.extractLsb' 8 8

/-- The length field from its two bytes, as R48 reads it. -/
def lengthOf (lo hi : Byte) : Half := BitVec.ofNat 16 (lo.toNat + 256 * hi.toNat)

/-! ### Decoding -/

/-- `n` colour records `r, g, b, a` in LED index order (R51). -/
def decodeColors : Nat → List Byte → Except DecodeError (List Color × List Byte)
  | 0, bs => .ok ([], bs)
  | n + 1, r :: g :: b :: a :: bs =>
    match decodeColors n bs with
    | .ok (cs, rest) => .ok ({ r := r, g := g, b := b, a := a } :: cs, rest)
    | .error e => .error e
  | _ + 1, _ => .error .short

/-- `led_count` and then exactly `led_count` records (R51). The byte order of the count is log 2. -/
def decodeCounted : List Byte → Except DecodeError (List Color × List Byte)
  | lo :: hi :: bs => decodeColors (natOfBytes [lo, hi]) bs
  | _ => .error .short

/-- A truth value: 0 or 1 (log 3). -/
def decodeBool (b : Byte) : Except DecodeError Bool :=
  if b = 0 then .ok false else if b = 1 then .ok true else .error .notBool

/-- The operand of ENCODE_FRAME: the counted colours, the hold in four bytes, `usePrevious` (log 3). -/
def decodeFrameOperand (bs : List Byte) : Except DecodeError (Frame × List Byte) :=
  match decodeCounted bs with
  | .error e => .error e
  | .ok (cs, h0 :: h1 :: h2 :: h3 :: u :: rest) =>
    match decodeBool u with
    | .ok flag => .ok ({ colors := cs, holdDurationMs := natOfBytes [h0, h1, h2, h3], usePrevious := flag }, rest)
    | .error e => .error e
  | .ok _ => .error .short

/-- The header token at the front of the stream (R39, R50). -/
def decodeHeaderToken (p : Params) : List Byte → Except DecodeError (Instr × List Byte)
  | [] => .error .short
  | op :: bs =>
    if op = p.opcode then
      match bs with
      | lo :: hi :: rest => if lengthLegal (lengthOf lo hi) then .ok (.cmdClockOut (lengthOf lo hi), rest) else .error .badLength
      | _ => .error .short
    else .error .notCommand

/-- The symbol at the front of the stream (R55, R56, R50). -/
def decodeSymbolToken (p : Params) : List Byte → Except DecodeError (Instr × List Byte)
  | [] => .error .short
  | b :: rest =>
    if b = p.symZero then .ok (.symZero, rest)
    else if b = p.symOne then .ok (.symOne, rest)
    else .error .notSymbol

/-- The decoder: the operation at the front of the bytes, and the bytes after it. On the wire, the position alone
says whether a byte is a header byte or a symbol (R48, R55), so `inPayload` says which; elsewhere it is not read. -/
def decode (p : Params) (port : Port) (inPayload : Bool) (bs : List Byte) : Except DecodeError (Instr × List Byte) :=
  match port with
  | .frameIn =>
    match decodeCounted bs with
    | .ok (cs, rest) => .ok (.submitFrame cs, rest)
    | .error e => .error e
  | .byteOut => .ok (.emitByte, bs)
  | .status =>
    match bs with
    | [] => .error .short
    | b :: rest =>
      if b.extractLsb' 4 4 = 0 ∧ b.extractLsb' 2 2 ≠ 3 ∧ b.extractLsb' 0 2 ≠ 3 then .ok (.readStatus, rest)
      else .error .reservedStatus
  | .rst => .ok (.reset, bs)
  | .wire => if inPayload then decodeSymbolToken p bs else decodeHeaderToken p bs
  | .channelByteFn =>
    match bs with
    | [] => .error .short
    | b :: rest => .ok (.encodeChannelByte b, rest)
  | .ledFn =>
    match bs with
    | r :: g :: b :: a :: rest => .ok (.encodeLed { r := r, g := g, b := b, a := a }, rest)
    | _ => .error .short
  | .payloadFn =>
    match decodeCounted bs with
    | .ok (cs, rest) => .ok (.encodePayload cs, rest)
    | .error e => .error e
  | .headerFn =>
    match bs with
    | lo :: hi :: rest =>
      if encodable (natOfBytes [lo, hi]) then .ok (.encodeHeader (natOfBytes [lo, hi]), rest) else .error .countOutOfDomain
    | _ => .error .short
  | .frameFn =>
    match decodeFrameOperand bs with
    | .ok (f, rest) => .ok (.encodeFrame f, rest)
    | .error e => .error e

/-! ### Encoding -/

/-- A colour record of the input transaction (R51). -/
def colorBytes (c : Color) : List Byte := [c.r, c.g, c.b, c.a]

/-- `led_count` and the records (R51). -/
def countedBytes (cs : List Color) : List Byte := natBytes 2 cs.length ++ cs.flatMap colorBytes

/-- The port an operation belongs to (R53, R69). -/
def Instr.port : Instr → Port
  | .cmdClockOut _ => .wire
  | .symZero => .wire
  | .symOne => .wire
  | .submitFrame _ => .frameIn
  | .emitByte => .byteOut
  | .readStatus => .status
  | .reset => .rst
  | .encodeChannelByte _ => .channelByteFn
  | .encodeLed _ => .ledFn
  | .encodePayload _ => .payloadFn
  | .encodeHeader _ => .headerFn
  | .encodeFrame _ => .frameFn

/-- Whether a token stands at a payload position (R55, R56). -/
def Instr.inPayload : Instr → Bool
  | .cmdClockOut _ => false
  | .symZero => true
  | .symOne => true
  | .submitFrame _ => false
  | .emitByte => false
  | .readStatus => false
  | .reset => false
  | .encodeChannelByte _ => false
  | .encodeLed _ => false
  | .encodePayload _ => false
  | .encodeHeader _ => false
  | .encodeFrame _ => false

/-- The bytes of an operation at its port. -/
def encode (p : Params) : Instr → List Byte
  | .cmdClockOut len => [p.opcode, lowByte len, highByte len]
  | .symZero => [p.symZero]
  | .symOne => [p.symOne]
  | .submitFrame colors => countedBytes colors
  | .emitByte => []
  | .readStatus => [0x00]
  | .reset => []
  | .encodeChannelByte b => [b]
  | .encodeLed c => colorBytes c
  | .encodePayload colors => countedBytes colors
  | .encodeHeader n => natBytes 2 n
  | .encodeFrame f => countedBytes f.colors ++ natBytes 4 f.holdDurationMs ++ [if f.usePrevious then 0x01 else 0x00]

/-! ### Words of the opcode table -/

/-- Which port a word of the opcode table belongs to, whether it stands at a payload position, and its bytes, with
the operand words above `nbits` as zeros (log 5). One byte with bits 7 to 4 zero is a STATUS word, any other byte a
symbol, three bytes a header, everything else an input transaction. -/
def tableWord (nbits w : Nat) : Port × Bool × List Byte :=
  if nbits = 8 then
    if w < 16 then (.status, false, natBytes 1 w) else (.wire, true, natBytes 1 w)
  else if nbits = 24 then (.wire, false, natBytes 3 w)
  else if nbits < 16 then (.frameIn, false, natBytes (nbits / 8) w)
  else
    let own := natBytes (nbits / 8) w
    (.frameIn, false, own ++ List.replicate (2 + 4 * (w % 65536) - own.length) 0)

/-- What the decoder reads from a word of the opcode table, under the configuration the machine is built with. -/
def decodeTableWord (nbits w : Nat) : Option Instr :=
  match tableWord nbits w with
  | (port, inPayload, bs) =>
    match decode Config.params port inPayload bs with
    | .ok (i, []) => some i
    | _ => none

end Sys2Proof
end

