-- ==== Sys2Proof/Machine/State.lean ====
section
/-! DEFINITION. The state of the machine as plain data: the block's tuple of R20, the configuration (R19), and what
the other two agents of R68 hold; the reasons a step can stop; the state after reset (R22). -/

namespace Sys2Proof.Machine

/-- PHASE (R14). The encoding `0b11` cannot be written down (U4). -/
inductive Phase where
  | idle
  | busy
  | fault
  deriving DecidableEq, Repr

/-- FCODE (R17, R89). The reserved value 3 cannot be written down (U4). -/
inductive FCode where
  | none
  | emptyFrame
  | frameTooLong
  deriving DecidableEq, Repr

/-- The state of the block: exactly the tuple of R20. -/
structure Block where
  /-- PHASE (R14). -/
  phase : Phase
  /-- SNAP (R15); meaningful only while PHASE = BUSY. -/
  snap  : List Rgb
  /-- snapN (R15). -/
  snapN : Nat
  /-- POS (R16). -/
  pos   : Half
  /-- FCODE (R17). -/
  fcode : FCode
  deriving DecidableEq, Repr

/-- What the host holds at the ports (R68, R69). -/
structure HostSide where
  /-- The transactions to come, one slot a step (R52, R68, log 1). -/
  script : List Slot
  /-- The submission that was offered and not accepted, pending at the host (R73, R74, log 9). -/
  offer  : Option (List Color)
  /-- The byte READ_STATUS last returned (R72, log 14). -/
  status : Option Byte
  deriving DecidableEq, Repr

/-- Where the consumer stands in the wire language (R48, R107). -/
inductive WireStage where
  /-- At a command boundary: the next bytes are a header. -/
  | boundary
  /-- Inside a payload, with `left` bytes still to come. -/
  | payload (left : Nat)
  deriving DecidableEq, Repr

/-- What the consumer holds (R68): the bytes it has accepted, and what it has told apart of them. -/
structure Consumer where
  /-- Bytes accepted and not yet told apart, oldest first. -/
  inbox   : List Byte
  /-- Bytes already taken as tokens, oldest first. -/
  decoded : List Byte
  /-- The position in the wire language. -/
  stage   : WireStage
  /-- The protocol bits recovered since the last header (R45, R55, R56). -/
  bits    : List Bool
  /-- The stream position at which a RESET truncated a wire frame; every byte from there on is outside the admitted
  language (R102, log 13). -/
  cut     : Option Nat
  deriving DecidableEq, Repr

/-- The result of an internal function (R57, R61 to R64). -/
inductive FnResult where
  | bytes (bs : List Byte)
  | raised (code : FCode)
  deriving DecidableEq, Repr

/-- The whole machine. -/
structure State where
  block    : Block
  /-- The configuration (R4, R19): the OPEN parameters, as an argument the state carries. -/
  cfg      : Params
  host     : HostSide
  consumer : Consumer
  /-- The result of the internal function evaluated last (log 14). -/
  fnResult : Option FnResult
  /-- How many free values have been drawn (log 7). -/
  draws    : Nat
  deriving DecidableEq, Repr

/-- The machine stops with a fault. The block's own faults (R89) are next states, not these. -/
inductive Fault where
  /-- Raised by EMIT_BYTE in a state that breaks R21: PHASE = BUSY without a snapshot of `snapN` LEDs, `snapN` in
  `1 .. MAX_LEDS` and `POS < 24 snapN + 3`. Safe: no run reaches it, and the spec gives it no byte (log 15). -/
  | inconsistentFrameState
  deriving DecidableEq, Repr

/-- No meaning for the operation. -/
inductive Refusal where
  /-- Raised by `exec` for an instruction without a meaning. Safe. -/
  | notModelled (mnemonic : String)
  /-- Raised by every operation but READ_STATUS and RESET, when `P_SYM_ZERO = P_SYM_ONE` (R5). Safe. -/
  | illFormedConfiguration
  /-- Raised by the step for a transaction that no operation can be read from (R51). Safe. -/
  | undecodable (why : DecodeError)
  /-- Raised by the step, and by the wire tokens, for bytes outside the admitted wire language (R50, U3). Safe. -/
  | outsideWireLanguage (why : DecodeError)
  /-- Raised by the step when the consumer reads past a truncated frame (R102, D24). Safe. -/
  | afterTruncation
  /-- Raised by a wire token at a position where it cannot stand (R48, R55). Safe. -/
  | tokenOutOfPlace
  /-- Raised by ENCODE_HEADER outside its domain, where no byte values are given (R49, R63). Safe. -/
  | headerOutOfDomain
  deriving DecidableEq, Repr

/-- The state right after reset (R22): IDLE, no fault, POS and snapN 0, no byte offered, the configuration the
machine is built with. DESIGN CHOICE (logs 8, 23): the snapshot and the agents' own fields are
empty. -/
def State.reset : State where
  block    := { phase := .idle, snap := [], snapN := 0, pos := 0, fcode := .none }
  cfg      := Config.params
  host     := { script := [], offer := none, status := none }
  consumer := { inbox := [], decoded := [], stage := .boundary, bits := [], cut := none }
  fnResult := none
  draws    := 0

end Sys2Proof.Machine
end

