-- ==== Sys2Proof/Machine/Operands.lean ====
section
/-! DEFINITION. Operand forms: the triple SNAP keeps of a colour (R11, R15), the channel selector (R60), and the
bits of a channel byte, most significant first (R7, R28). -/

namespace Sys2Proof.Machine

/-- The triple the block keeps and transmits; alpha is never read (R11, R61). -/
def toRgb (c : Color) : Rgb := { r := c.r, g := c.g, b := c.b }

/-- `CHANNEL(c, k)`: green, red, blue (R60, R29). -/
def channel (c : Rgb) (k : Fin 3) : Byte :=
  match k with
  | 0 => c.g
  | 1 => c.r
  | 2 => c.b

/-- The bits of a byte, bit 7 first (R7): entry `i` is `b[7 - i]`. -/
def bitsMsbFirst (b : Byte) : List Bool :=
  [b.getLsbD 7, b.getLsbD 6, b.getLsbD 5, b.getLsbD 4, b.getLsbD 3, b.getLsbD 2, b.getLsbD 1, b.getLsbD 0]

/-- The protocol bits of one LED in wire order (R28, R29). -/
def ledBits (c : Rgb) : List Bool :=
  bitsMsbFirst (channel c 0) ++ bitsMsbFirst (channel c 1) ++ bitsMsbFirst (channel c 2)

/-- The protocol bits of a colour array in wire order (R30). -/
def frameBits (cs : List Rgb) : List Bool := cs.flatMap ledBits

end Sys2Proof.Machine
end

