-- ==== Sys2Proof/Machine/Encoder.lean ====
section
/-! DEFINITION. BitEncoder and FrameEncoder as pure functions of their operands and the configuration (R54 to R67),
and the wire format they produce (R39 to R48). -/

namespace Sys2Proof.Machine

/-- `sym` (R54). -/
def sym (p : Params) (bit : Bool) : Byte := if bit then p.symOne else p.symZero

/-- ENCODE_CHANNEL_BYTE (R57). -/
def channelByteSymbols (p : Params) (b : Byte) : List Byte :=
  [sym p (b.getLsbD 7), sym p (b.getLsbD 6), sym p (b.getLsbD 5), sym p (b.getLsbD 4),
   sym p (b.getLsbD 3), sym p (b.getLsbD 2), sym p (b.getLsbD 1), sym p (b.getLsbD 0)]

/-- ENCODE_LED on the channels it reads (R61). -/
def ledSymbols (p : Params) (c : Rgb) : List Byte :=
  channelByteSymbols p c.g ++ channelByteSymbols p c.r ++ channelByteSymbols p c.b

/-- ENCODE_PAYLOAD (R62). -/
def payloadSymbols (p : Params) (cs : List Rgb) : List Byte := cs.flatMap (ledSymbols p)

/-- `L = 24 n - 1` (R42), in range for every encodable count. -/
def lengthField (n : Nat) : Half := BitVec.ofNat 16 (24 * n - 1)

/-- ENCODE_HEADER (R63), for a count in its domain. -/
def headerBytes (p : Params) (n : Nat) : List Byte :=
  [p.opcode, lowByte (lengthField n), highByte (lengthField n)]

/-- The length of a wire frame (R46). -/
def wireLength (n : Nat) : Nat := 24 * n + 3

/-- The wire frame of a snapshot: `W` of R71. -/
def wireFrame (p : Params) (n : Nat) (cs : List Rgb) : List Byte := headerBytes p n ++ payloadSymbols p cs

/-- The checks of ENCODE_FRAME and SUBMIT_FRAME, in their order (R64, R70, R92). -/
def frameFault (n : Nat) : Option FCode :=
  if n = 0 then some .emptyFrame else if maxLeds < n then some .frameTooLong else none

/-- ENCODE_FRAME (R64): the wire frame, or the fault it raises. It reads `f.colors` and nothing else (R65). -/
def frameEncoding (p : Params) (f : Frame) : Except FCode (List Byte) :=
  match frameFault f.colors.length with
  | some code => .error code
  | none => .ok (wireFrame p f.colors.length (f.colors.map toRgb))

/-- The closed form of payload byte `k` (R44). -/
def payloadByteAt (p : Params) (cs : List Rgb) (k : Nat) : Option Byte :=
  match cs[k / 24]? with
  | none => none
  | some c => some (sym p ((channel c (Fin.ofNat 3 (k % 24 / 8))).getLsbD (7 - k % 8)))

/-- The total length of a wire frame as a downstream decoder reads it off the header (R48). -/
def totalLength (lo hi : Byte) : Nat := 3 + (lo.toNat + 256 * hi.toNat) + 1

/-- The left inverse of ENCODE_CHANNEL_BYTE (R58): bit `7 - i` is 1 exactly when symbol `i` is `P_SYM_ONE`. -/
def symbolsToByte (p : Params) (syms : List Byte) : Byte :=
  BitVec.ofNat 8 (syms.foldl (fun acc y => 2 * acc + (if y = p.symOne then 1 else 0)) 0)

end Sys2Proof.Machine
end

