-- ==== Sys2Proof/Machine/Flags.lean ====
section
/-! DEFINITION. STATUS and the handshakes: the views of the block's state that its ports show (R18, R69). -/

namespace Sys2Proof.Machine

/-- The encoding of PHASE in STATUS (R14). -/
def phaseCode : Phase → BitVec 2
  | .idle => 0b00
  | .busy => 0b01
  | .fault => 0b10

/-- The value of FCODE (R17, R89). -/
def fcodeCode : FCode → BitVec 2
  | .none => 0
  | .emptyFrame => 1
  | .frameTooLong => 2

/-- STATUS = `zext_8(FCODE) << 2 | zext_8(PHASE)` (R18, R72). -/
def statusByte (b : Block) : Byte :=
  ((fcodeCode b.fcode).setWidth 8 <<< 2) ||| (phaseCode b.phase).setWidth 8

/-- `frame_in_ready` (R69). -/
def frameInReady (b : Block) : Bool := decide (b.phase = .idle)

/-- `byte_out_valid` (R69, R75). -/
def byteOutValid (b : Block) : Bool := decide (b.phase = .busy)

end Sys2Proof.Machine
end

