-- ==== Sys2Proof/Machine/Ops.lean ====
section
/-! DEFINITION. The named operations over the state that the meanings are made of: the updates of one agent's part,
the configuration check (R5), taking a fault (R93) and leaving it (R101), loading the snapshot (R70), handing a byte
to the consumer (R71), and taking a wire token off the stream (R48). -/

namespace Sys2Proof.Machine

/-- The answer every operation gives. -/
abbrev Answer := Host.Outcome State Fault Refusal

/-! ### Updates of one part -/

def withBlock (s : State) (b : Block) : State := { s with block := b }
def withHost (s : State) (h : HostSide) : State := { s with host := h }
def withConsumer (s : State) (c : Consumer) : State := { s with consumer := c }
def withResult (s : State) (r : FnResult) : State := { s with fnResult := some r }
def withScript (s : State) (script : List Slot) : State := withHost s { s.host with script := script }
def withOffer (s : State) (offer : Option (List Color)) : State := withHost s { s.host with offer := offer }
def withStatus (s : State) (v : Byte) : State := withHost s { s.host with status := some v }

/-! ### Configuration -/

/-- R5: the model refuses a configuration that is not well-formed. Used by every operation but the two that the
spec enables always (R72, R101). -/
def withConfig (s : State) (answer : Answer) : Answer :=
  if s.cfg.wf then answer else .refused .illFormedConfiguration

/-! ### Faults and reset -/

/-- Taking a fault: `raise Fault(code)` (R93). The submission is consumed and SNAP is not loaded. -/
def raiseFault (s : State) (code : FCode) : State :=
  withOffer (withBlock s { s.block with phase := .fault, fcode := code, pos := 0, snapN := 0 }) none

/-- SNAP becomes unspecified (R15, R22, R101): a free value is drawn (U1, log 7). -/
def forgetSnap (s : State) : State :=
  { s with block := { s.block with snap := Config.freeSnap s.draws }, draws := s.draws + 1 }

/-- The number of bytes the consumer has accepted since the model started. -/
def acceptedCount (c : Consumer) : Nat := c.decoded.length + c.inbox.length

/-- The consumer's record of a truncated frame (R102): the first cut stays, since nothing in the model brings the
consumer back to a command boundary (D24, log 13). -/
def markCut (c : Consumer) : Consumer :=
  match c.cut with
  | some _ => c
  | none => { c with cut := some (acceptedCount c) }

/-- Whether a RESET now cuts a wire frame short: some of its bytes are out (R102, log 13). -/
def frameInFlight (b : Block) : Bool := decide (b.phase = .busy) && decide (b.pos ≠ 0)

/-- The return from a fault, and the reset of any phase: RESET (R101). -/
def resetBlock (s : State) : State :=
  let cleared := forgetSnap (withBlock s { s.block with phase := .idle, fcode := .none, pos := 0, snapN := 0 })
  if frameInFlight s.block then withConsumer cleared (markCut s.consumer) else cleared

/-! ### The frame in flight -/

/-- The acceptance of a frame (R70): the snapshot is the whole frame (R25, R33). FCODE is 0 already (R21). -/
def loadFrame (s : State) (colors : List Color) : State :=
  withOffer (withBlock s { s.block with phase := .busy, snap := colors.map toRgb, snapN := colors.length, pos := 0 }) none

/-- What R15, R16 and R21 say of the block while PHASE = BUSY. -/
def frameHeld (b : Block) : Bool :=
  encodable b.snapN && decide (b.snap.length = b.snapN) && decide (b.pos.toNat < wireLength b.snapN)

/-- The byte `W[POS]` the block offers: only while PHASE = BUSY (R69, R71, R75). -/
def byteOut (p : Params) (b : Block) : Option Byte :=
  if byteOutValid b && frameHeld b then (wireFrame p b.snapN b.snap)[b.pos.toNat]? else none

/-- The consumer accepts a byte (R68, R71). -/
def accept (c : Consumer) (b : Byte) : Consumer := { c with inbox := c.inbox ++ [b] }

/-- The block's side of EMIT_BYTE after the byte is delivered (R71). -/
def advance (s : State) : State :=
  if s.block.pos.toNat + 1 = wireLength s.block.snapN then
    forgetSnap (withBlock s { s.block with phase := .idle, pos := 0, snapN := 0 })
  else withBlock s { s.block with pos := s.block.pos + 1 }

/-- Every byte the consumer has accepted, in stream order (R26). -/
def stream (s : State) : List Byte := s.consumer.decoded ++ s.consumer.inbox

/-- The bytes the block still owes of the frame in flight. -/
def owed (s : State) : List Byte :=
  if s.block.phase = .busy then (wireFrame s.cfg s.block.snapN s.block.snap).drop s.block.pos.toNat else []

/-! ### The consumer's decoder -/

/-- Whether the next byte is a payload byte (R48). -/
def atPayload (st : WireStage) : Bool :=
  match st with
  | .boundary => false
  | .payload _ => true

/-- The undecoded bytes that the admitted language still covers: those before a truncation (R102). -/
def admitted (c : Consumer) : List Byte :=
  match c.cut with
  | none => c.inbox
  | some k => c.inbox.take (k - c.decoded.length)

/-- Takes `n` bytes off the front of the stream. -/
def takeBytes (c : Consumer) (n : Nat) : Consumer :=
  { c with inbox := c.inbox.drop n, decoded := c.decoded ++ c.inbox.take n }

/-- A header read at a command boundary: `L + 1` payload bytes follow (R48). -/
def openPayload (s : State) (len : Half) : State :=
  withConsumer s { s.consumer with stage := .payload (len.toNat + 1), bits := [] }

/-- A symbol read in a payload: one protocol bit, and one byte less to come (R45, R55, R56). -/
def takeSymbol (s : State) (bit : Bool) : Answer :=
  match s.consumer.stage with
  | .payload (left + 1) =>
    let stage := if left = 0 then WireStage.boundary else WireStage.payload left
    .next (withConsumer s { s.consumer with stage := stage, bits := s.consumer.bits ++ [bit] })
  | .payload 0 => .refused .tokenOutOfPlace
  | .boundary => .refused .tokenOutOfPlace

end Sys2Proof.Machine
end

