-- ==== Sys2Proof/Machine/EncoderOps.lean ====
section
/-! DEFINITION. The internal functions evaluated on their own (R57, R61 to R64): each writes no state of the block
(R67); its result is shown in `fnResult` (log 14). -/

namespace Sys2Proof.Machine

/-- ENCODE_CHANNEL_BYTE (R57). -/
def execEncodeChannelByte (b : Byte) (s : State) : Answer :=
  withConfig s (.next (withResult s (.bytes (channelByteSymbols s.cfg b))))

/-- ENCODE_LED (R61). -/
def execEncodeLed (c : Color) (s : State) : Answer :=
  withConfig s (.next (withResult s (.bytes (ledSymbols s.cfg (toRgb c)))))

/-- ENCODE_PAYLOAD (R62). -/
def execEncodePayload (colors : List Color) (s : State) : Answer :=
  withConfig s (.next (withResult s (.bytes (payloadSymbols s.cfg (colors.map toRgb)))))

/-- ENCODE_HEADER (R63). Outside its domain no byte values are given (R49). -/
def execEncodeHeader (n : Nat) (s : State) : Answer :=
  withConfig s <|
    if encodable n then .next (withResult s (.bytes (headerBytes s.cfg n))) else .refused .headerOutOfDomain

/-- ENCODE_FRAME (R64). Its fault is its result: the function itself writes no flag and no state (R64, R67, log 11). -/
def execEncodeFrame (f : Frame) (s : State) : Answer :=
  withConfig s <|
    match frameEncoding s.cfg f with
    | .ok bs => .next (withResult s (.bytes bs))
    | .error code => .next (withResult s (.raised code))

end Sys2Proof.Machine
end

