-- ==== Sys2Proof/Machine/PortOps.lean ====
section
/-! DEFINITION. The port operations (42_stream_port.md section 2, R101). -/

namespace Sys2Proof.Machine

/-- SUBMIT_FRAME (R70). Accepted in IDLE, where it loads the snapshot or raises a fault; in BUSY and in FAULT the
block's state is unchanged and the submission stays pending at the host (R73, R74). -/
def execSubmitFrame (colors : List Color) (s : State) : Answer :=
  withConfig s <|
    if frameInReady s.block then
      match frameFault colors.length with
      | some code => .next (raiseFault s code)
      | none => .next (loadFrame s colors)
    else .next (withOffer s (some colors))

/-- EMIT_BYTE (R71). In IDLE and in FAULT no byte is offered, and the operation has no step (R75). -/
def execEmitByte (s : State) : Answer :=
  withConfig s <|
    if byteOutValid s.block then
      match byteOut s.cfg s.block with
      | some b => .next (advance (withConsumer s (accept s.consumer b)))
      | none => .fault .inconsistentFrameState
    else .next s

/-- READ_STATUS (R72): enabled always, and the block's state is unchanged. -/
def execReadStatus (s : State) : Answer := .next (withStatus s (statusByte s.block))

/-- RESET (R101): enabled in every phase. -/
def execReset (s : State) : Answer := .next (resetBlock s)

end Sys2Proof.Machine
end

