-- ==== Sys2Proof/Machine/WireTokens.lean ====
section
/-! DEFINITION. The wire tokens, as the downstream decoder reads them (R39, R48, R50, R55, R56). -/

namespace Sys2Proof.Machine

/-- CMD_CLOCK_OUT (R39, R48): at a command boundary, the header announces `L + 1` payload bytes. A length no wire
frame carries is outside the admitted language and is not interpreted (R50). -/
def execCmdClockOut (len : Half) (s : State) : Answer :=
  withConfig s <|
    match s.consumer.stage with
    | .boundary => if lengthLegal len then .next (openPayload s len) else .refused (.outsideWireLanguage .badLength)
    | .payload _ => .refused .tokenOutOfPlace

/-- SYM_ZERO (R55): one logical 0 bit. -/
def execSymZero (s : State) : Answer := withConfig s (takeSymbol s false)

/-- SYM_ONE (R56): one logical 1 bit. -/
def execSymOne (s : State) : Answer := withConfig s (takeSymbol s true)

end Sys2Proof.Machine
end

