-- ==== Sys2Proof/Machine/Dispatch.lean ====
section
/-! DEFINITION. One arm for each row of the operation map (R53). -/

namespace Sys2Proof.Machine

def exec (i : Instr) (s : State) : Host.Outcome State Fault Refusal :=
  match i with
  | .cmdClockOut len => Sys2Proof.Machine.execCmdClockOut len s
  | .symZero => Sys2Proof.Machine.execSymZero s
  | .symOne => Sys2Proof.Machine.execSymOne s
  | .submitFrame colors => Sys2Proof.Machine.execSubmitFrame colors s
  | .emitByte => Sys2Proof.Machine.execEmitByte s
  | .readStatus => Sys2Proof.Machine.execReadStatus s
  | .reset => Sys2Proof.Machine.execReset s
  | .encodeChannelByte b => Sys2Proof.Machine.execEncodeChannelByte b s
  | .encodeLed c => Sys2Proof.Machine.execEncodeLed c s
  | .encodePayload colors => Sys2Proof.Machine.execEncodePayload colors s
  | .encodeHeader n => Sys2Proof.Machine.execEncodeHeader n s
  | .encodeFrame f => Sys2Proof.Machine.execEncodeFrame f s

end Sys2Proof.Machine
end

