-- ==== Sys2Proof/Machine/Schedule.lean ====
section
/-! DEFINITION. How the transactions of the script come to be executed (R52, R68, R92): fetching one operation from
a transaction or from the byte stream, settling transactions offered together, and taking a lifted hold. -/

namespace Sys2Proof.Machine

/-- What a transaction brings. -/
inductive Fetched where
  /-- An operation to execute, in the state after its bytes are taken. -/
  | ready (i : Instr) (s : State)
  /-- The consumer's next token is not complete yet: nothing happens (R76). -/
  | waiting
  | refused (r : Refusal)
  deriving DecidableEq, Repr

/-- The consumer reads its next token (R48): from the bytes it has accepted, and not past a truncation (R102). -/
def fetchToken (s : State) : Fetched :=
  match decode s.cfg .wire (atPayload s.consumer.stage) (admitted s.consumer) with
  | .ok (i, rest) =>
    .ready i (withConsumer s (takeBytes s.consumer ((admitted s.consumer).length - rest.length)))
  | .error .short =>
    if (admitted s.consumer).length < s.consumer.inbox.length then .refused .afterTruncation else .waiting
  | .error why => .refused (.outsideWireLanguage why)

/-- An operation from the bytes of its transaction, all of which it must use (R51). -/
def fetchTransaction (t : Transaction) (s : State) : Fetched :=
  match decode s.cfg t.port false t.bytes with
  | .ok (i, []) => .ready i s
  | .ok _ => .refused (.undecodable .trailing)
  | .error why => .refused (.undecodable why)

/-- The operation of a transaction. On the wire the bytes come from the stream alone, so the transaction carries none. -/
def fetch (t : Transaction) (s : State) : Fetched :=
  if t.port = .wire then
    match t.bytes with
    | [] => fetchToken s
    | _ :: _ => .refused (.undecodable .trailing)
  else fetchTransaction t s

/-- One transaction as one atomic step (R68). -/
def runTransaction (t : Transaction) (s : State) : Answer :=
  match fetch t s with
  | .ready i s' => exec i s'
  | .waiting => .next s
  | .refused r => .refused r

/-- R92: of transactions offered together, a status read sees the state before the others, and RESET wins over all
others, which have no effect. Otherwise the order of the slot is the order in which the steps are taken (R68). -/
def arbitrate (slot : Slot) : Slot :=
  let reads := slot.filter (fun t => decide (t.port = .status))
  let resets := slot.filter (fun t => decide (t.port = .rst))
  let others := slot.filter (fun t => decide (t.port ≠ .status ∧ t.port ≠ .rst))
  match resets with
  | r :: _ => reads ++ [r]
  | [] => reads ++ others

/-- Transactions one after the other, up to the first stop. -/
def runAll : Slot → State → Answer
  | [], s => .next s
  | t :: ts, s =>
    match runTransaction t s with
    | .next s' => runAll ts s'
    | .fault f => .fault f
    | .refused r => .refused r

/-- A step in which the script offers nothing: a submission pending at the host is accepted as soon as its hold is
lifted (R73, log 9); otherwise nothing happens, for any number of steps (R76). -/
def idleStep (s : State) : Answer :=
  match s.host.offer with
  | some colors => if frameInReady s.block then exec (.submitFrame colors) s else .next s
  | none => .next s

/-- One step of the machine: the next slot of the script. -/
def takeStep (s : State) : Answer :=
  match s.host.script with
  | [] => idleStep s
  | slot :: rest => runAll (arbitrate slot) (withScript s rest)

/-- An operation taken `n` times, up to the first stop. -/
def repeatOp (f : State → Answer) : Nat → State → Answer
  | 0, s => .next s
  | n + 1, s =>
    match f s with
    | .next s' => repeatOp f n s'
    | .fault r => .fault r
    | .refused r => .refused r

/-- Operations one after the other, up to the first stop. -/
def execAll : List Instr → State → Answer
  | [], s => .next s
  | i :: is, s =>
    match exec i s with
    | .next s' => execAll is s'
    | .fault r => .fault r
    | .refused r => .refused r

/-- The consumer accepts `n` bytes one after the other. -/
def emitTimes (n : Nat) (s : State) : Answer := repeatOp (exec .emitByte) n s

/-- The consumer reads `n` tokens one after the other. -/
def receiveTimes (n : Nat) (s : State) : Answer :=
  repeatOp (runTransaction { port := .wire, bytes := [] }) n s

/-- A word of the opcode table where the next step fetches its operation: as the next transaction of the script, and
for a wire token as the next bytes of the stream, at the position where the token can stand (log 5). -/
def placeWord (s : State) (nbits w : Nat) : State :=
  match tableWord nbits w with
  | (port, inPayload, bs) =>
    if port = .wire then
      withConsumer (withScript s ([{ port := .wire, bytes := [] }] :: s.host.script))
        { s.consumer with
          inbox := bs ++ s.consumer.inbox
          stage := if inPayload then .payload 1 else .boundary
          cut := none }
    else withScript s ([{ port := port, bytes := bs }] :: s.host.script)

end Sys2Proof.Machine
end

