-- ==== Sys2Proof/Machine/Step.lean ====
section
/-! DEFINITION. One step of the machine, and a word of the opcode table placed where the step fetches. -/

namespace Sys2Proof.Machine

/-- One step: the next slot of the transaction script (R68, R92). -/
def step (s : State) : Host.Outcome State Fault Refusal := takeStep s

/-- `s` with a word of the opcode table as its next operation (log 5). -/
def State.withFetchWord (s : State) (nbits w : Nat) : State := placeWord s nbits w

end Sys2Proof.Machine
end

