-- ==== Sys2Proof/Machine/Counters.lean ====
section
/-! DEFINITION. The realisation R78 admits in place of a stored `W`: a header index followed by the counters
`(led, ch, i)`, with `i` stepping fastest, then `ch`, then `led`. It is no part of State; a statement says that it
offers the same bytes. -/

namespace Sys2Proof.Machine

/-- The counters: `hdr` counts the header bytes already sent, and the rest stand still until it is 3. -/
structure Counters where
  hdr : Nat
  led : Nat
  ch  : Nat
  i   : Nat
  deriving DecidableEq, Repr

/-- The counters at the start of a wire frame. -/
def countersStart : Counters := { hdr := 0, led := 0, ch := 0, i := 0 }

/-- One byte further. -/
def countersNext (c : Counters) : Counters :=
  if c.hdr < 3 then { c with hdr := c.hdr + 1 }
  else if c.i < 7 then { c with i := c.i + 1 }
  else if c.ch < 2 then { c with i := 0, ch := c.ch + 1 }
  else { c with i := 0, ch := 0, led := c.led + 1 }

/-- The counters after `k` bytes. -/
def countersAt : Nat → Counters
  | 0 => countersStart
  | k + 1 => countersNext (countersAt k)

/-- The byte the counters offer. -/
def countersByte (p : Params) (n : Nat) (cs : List Rgb) (c : Counters) : Option Byte :=
  if c.hdr < 3 then (headerBytes p n)[c.hdr]?
  else
    match cs[c.led]? with
    | none => none
    | some t => some (sym p ((channel t (Fin.ofNat 3 c.ch)).getLsbD (7 - c.i)))

end Sys2Proof.Machine
end

