-- ==== Sys2Proof/Machine/Player.lean ====
section
/-! DEFINITION. The host as 43_host_transport.md describes it: its duties toward the block (R79 to R81, R108), the
slots one frame costs it (R82), and the Player that plays an animation against a Transport which reports each write
as a success or a failure (R82 to R85). The Player is surrounding software (R3): no field of State is its own. -/

namespace Sys2Proof.Machine

/-! ### Duties -/

/-- R79 and R108: the frame is one the host may submit. -/
def frameAllowed (f : Frame) : Bool := encodable f.colors.length

/-- R80: every frame of an animation has the same LED count. -/
def animationUniform : List Frame → Bool
  | [] => true
  | f :: fs => fs.all (fun g => decide (g.colors.length = f.colors.length))

/-- R81: a partial update made into a full colour array; an LED without a colour of its own keeps the one it had in
the prior frame, and with no prior colour the update cannot be resolved. -/
def resolvePrevious : List Color → List (Option Color) → Option (List Color)
  | _, [] => some []
  | [], some c :: cs => (resolvePrevious [] cs).map (c :: ·)
  | [], none :: _ => none
  | _ :: ps, some c :: cs => (resolvePrevious ps cs).map (c :: ·)
  | p :: ps, none :: cs => (resolvePrevious ps cs).map (p :: ·)

/-! ### One frame against the block -/

/-- One iteration of the Player against the block: one SUBMIT_FRAME, then EMIT_BYTE until IDLE (R82). -/
def frameSlots (f : Frame) : List Slot :=
  [{ port := .frameIn, bytes := countedBytes f.colors }]
    :: List.replicate (wireLength f.colors.length) [{ port := .byteOut, bytes := [] }]

/-! ### Playing an animation -/

/-- R82. -/
inductive PlayerPhase where
  | idle
  | playing
  deriving DecidableEq, Repr

/-- What the Player reports (R80, R84, R96). -/
inductive PlayerError where
  | invalidArgument
  | transportWriteFailure
  deriving DecidableEq, Repr

/-- The Player between two frames: what is left to play, the writes made, and the milliseconds of holds taken. -/
structure Player where
  phase  : PlayerPhase
  frames : List Frame
  writes : List (List Byte)
  clock  : Nat
  report : Option PlayerError
  deriving DecidableEq, Repr

/-- One frame: encode, one write of the whole wire frame (R83), then the hold (R85), or the abort of a failed write,
which takes no hold, is not retried, and returns to Idle (R84). -/
def playFrame (p : Params) (written : Bool) (pl : Player) : Player :=
  match pl.frames with
  | [] => { pl with phase := .idle }
  | f :: fs =>
    match frameEncoding p f with
    | .error _ => { pl with phase := .idle, frames := [], report := some .invalidArgument }
    | .ok w =>
      if written then
        { pl with
          phase := if fs = [] then .idle else .playing
          frames := fs
          writes := pl.writes ++ [w]
          clock := pl.clock + f.holdDurationMs }
      else
        { pl with
          phase := .idle
          frames := []
          writes := pl.writes ++ [w]
          report := some .transportWriteFailure }

/-- The Player at the start of `play`: an animation with an empty or too long frame, or with frames of different
lengths, is reported and nothing is written (R79, R80, R96, R108). -/
def startPlay (frames : List Frame) : Player :=
  if frames.all frameAllowed && animationUniform frames then
    { phase := if frames = [] then .idle else .playing, frames := frames, writes := [], clock := 0, report := none }
  else { phase := .idle, frames := [], writes := [], clock := 0, report := some .invalidArgument }

/-- `play` (R82), given what the Transport reports of each write, in order: the Player goes on until it is Idle. -/
def playOn (p : Params) : List Bool → Player → Player
  | [], pl => pl
  | written :: more, pl =>
    match pl.phase with
    | .idle => pl
    | .playing => playOn p more (playFrame p written pl)

def play (p : Params) (frames : List Frame) (reports : List Bool) : Player := playOn p reports (startPlay frames)

end Sys2Proof.Machine
end

