-- ==== Sys2Proof/Safety.lean ====
section
/-! DEFINITION. What a good state is: the invariants of R21, the wire language of R48 and R50 as a predicate on bytes,
and the invariant that ties the consumer's position to the bytes the block has sent and still owes (R34, R107). -/

namespace Sys2Proof.Machine

/-- The invariants of R21, with R15's reading of SNAP as a list of `snapN` entries. -/
def blockInv (b : Block) : Prop :=
  match b.phase with
  | .idle => b.fcode = .none
  | .busy => b.fcode = .none ∧ 1 ≤ b.snapN ∧ b.snapN ≤ maxLeds ∧ b.pos.toNat < 24 * b.snapN + 3 ∧ b.snap.length = b.snapN
  | .fault => b.fcode = .emptyFrame ∨ b.fcode = .frameTooLong

/-- Whether bytes, read from a position in the wire language, are whole tokens of it and end at a command boundary
(R39, R45, R48, R50). -/
def wireAdmits (p : Params) : WireStage → List Byte → Bool
  | .boundary, [] => true
  | .boundary, op :: lo :: hi :: rest =>
    decide (op = p.opcode) && lengthLegal (lengthOf lo hi) && wireAdmits p (.payload ((lengthOf lo hi).toNat + 1)) rest
  | .payload (left + 1), b :: rest =>
    decide (b = p.symZero ∨ b = p.symOne) && wireAdmits p (if left = 0 then .boundary else .payload left) rest
  | _, _ => false

/-- As long as no frame was truncated, what the consumer has accepted and the block still owes are whole frames, and
the consumer is at a command boundary when a frame's first byte reaches it (R34, R35, R107). -/
def linkInv (s : State) : Prop :=
  s.consumer.cut = none →
    wireAdmits s.cfg s.consumer.stage (s.consumer.inbox ++ owed s) = true ∧
    (s.block.phase = .busy → s.block.pos = 0 → wireAdmits s.cfg s.consumer.stage s.consumer.inbox = true)

/-- A truncation lies where bytes were accepted, and the consumer has not read past it (R102). -/
def cutInv (c : Consumer) : Prop :=
  match c.cut with
  | none => True
  | some k => c.decoded.length ≤ k ∧ k ≤ acceptedCount c

/-- The invariant of the whole machine. -/
def Inv (s : State) : Prop :=
  s.cfg.wf = true ∧ blockInv s.block ∧ linkInv s ∧ cutInv s.consumer

end Sys2Proof.Machine
end

