-- ==== Sys2Proof/Certificates/Slice0/Obligations.lean ====
section
/-! DEFINITION. The statements for the provers, each from the numbered rules of spec/ that its docstring names. -/

open Sys2Proof Sys2Proof.Machine

/-! ### The step -/

/-- R52, R68: one transaction offered alone, from whose bytes an operation is read, is that operation executed; the
step itself only takes the slot off the script. -/
def Obligations.StepRunsTransaction : Prop :=
  ∀ (s : State) (t : Transaction) (rest : List Slot) (i : Instr),
    s.host.script = [t] :: rest → t.port ≠ .wire → decode s.cfg t.port false t.bytes = .ok (i, []) →
    step s = exec i (withScript s rest)

/-- R48, R68: the consumer's turn reads the token at the front of the admitted bytes, moves its bytes from the inbox
to the decoded bytes, and executes it (log 12). -/
def Obligations.StepRunsWireToken : Prop :=
  ∀ (s : State) (rest : List Slot) (i : Instr) (after : List Byte),
    s.host.script = [{ port := .wire, bytes := [] }] :: rest →
    decode s.cfg .wire (atPayload s.consumer.stage) (admitted s.consumer) = .ok (i, after) →
    step s = exec i
      (withConsumer (withScript s rest) (takeBytes s.consumer ((admitted s.consumer).length - after.length)))

/-- R50, R76, R102 (logs 12, 13): where no token can be read, the consumer waits for more bytes, or the step stops
by name: on bytes outside the language, and on reading past a truncated frame. -/
def Obligations.WireTokenWaitsOrStops : Prop :=
  ∀ (s : State) (rest : List Slot) (why : DecodeError),
    s.host.script = [{ port := .wire, bytes := [] }] :: rest →
    decode s.cfg .wire (atPayload s.consumer.stage) (admitted s.consumer) = .error why →
    step s =
      if why = .short then
        if (admitted s.consumer).length < s.consumer.inbox.length then .refused .afterTruncation
        else .next (withScript s rest)
      else .refused (.outsideWireLanguage why)

/-- A transaction whose bytes are no operation, or more than one, is refused by name. For the input transaction of
frame_in R51 says so; which words are no status word is log 4, and which bytes are no operand of an internal function
is log 3: there it is the model's choice. -/
def Obligations.UndecodableTransactionRefused : Prop :=
  ∀ (s : State) (t : Transaction) (rest : List Slot),
    s.host.script = [t] :: rest → t.port ≠ .wire →
    (∀ why, decode s.cfg t.port false t.bytes = .error why → step s = .refused (.undecodable why)) ∧
    (∀ i b after, decode s.cfg t.port false t.bytes = .ok (i, b :: after) →
      step s = .refused (.undecodable .trailing))

/-- R73, R76 (the model's choice, log 9): with nothing offered, a pending submission is submitted once its hold is
lifted, and otherwise nothing changes. -/
def Obligations.NothingOfferedTakesPendingSubmission : Prop :=
  ∀ s : State, s.host.script = [] →
    (∀ colors, s.host.offer = some colors → s.block.phase = .idle → step s = exec (.submitFrame colors) s) ∧
    (s.host.offer = none ∨ s.block.phase ≠ .idle → step s = .next s)

/-- R92: RESET offered together with other operations wins; a status read offered with it, made with any word that is
one (log 4), sees the state before (log 22). -/
def Obligations.ResetWinsOverOthers : Prop :=
  ∀ (s : State) (slot : Slot) (rest : List Slot),
    s.host.script = slot :: rest →
    (∃ t ∈ slot, t.port = .rst) →
    (∀ t ∈ slot, t.port = .rst → t.bytes = []) →
    (∀ t ∈ slot, t.port = .status → decode s.cfg .status false t.bytes = .ok (.readStatus, [])) →
    step s = exec .reset
      (if slot.any (fun t => decide (t.port = .status)) then withStatus (withScript s rest) (statusByte s.block)
       else withScript s rest)

/-- R92: a status read offered together with other operations, however many and wherever the slot names it, returns
STATUS as it was before them; the others are then taken as the slot lists them (log 22, log 4). -/
def Obligations.StatusReadSeesStateBefore : Prop :=
  ∀ (s : State) (slot : Slot) (rest : List Slot),
    s.host.script = slot :: rest →
    (∃ t ∈ slot, t.port = .status) →
    (∀ t ∈ slot, t.port ≠ .rst) →
    (∀ t ∈ slot, t.port = .status → decode s.cfg .status false t.bytes = .ok (.readStatus, [])) →
    step s = runAll (slot.filter (fun t => decide (t.port ≠ .status))) (withStatus (withScript s rest) (statusByte s.block))

/-- R68 (the model's order, log 22): the operations of a slot without a status read or a RESET are taken one after the
other as the slot lists them, each from the state the ones before it left, up to the first that stops; the slot is off
the script before the first of them. -/
def Obligations.SlotTakenInOrder : Prop :=
  (∀ (s : State) (slot : Slot) (rest : List Slot),
    s.host.script = slot :: rest → (∀ t ∈ slot, t.port ≠ .status ∧ t.port ≠ .rst) →
    step s = runAll slot (withScript s rest)) ∧
  (∀ s : State, runAll [] s = .next s) ∧
  (∀ (s : State) (t : Transaction), runAll [t] s = runTransaction t s) ∧
  (∀ (s : State) (before after : Slot),
    (∀ t, runAll before s = .next t → runAll (before ++ after) s = runAll after t) ∧
    ((∀ t, runAll before s ≠ .next t) → runAll (before ++ after) s = runAll before s))

/-! ### Reset -/

/-- R22: the state right after reset. -/
def Obligations.StateAfterReset : Prop :=
  State.reset.block.phase = .idle ∧ State.reset.block.fcode = .none ∧ State.reset.block.pos = 0 ∧
  State.reset.block.snapN = 0 ∧ statusByte State.reset.block = 0x00 ∧
  byteOut State.reset.cfg State.reset.block = none ∧ State.reset.cfg = Config.params

/-- R101, R22: RESET, in every phase and whatever the configuration: the block's registers, the view of STATUS, no
byte offered and none owed, the configuration and everything the host and the consumer hold unchanged. The statement
says nothing of SNAP, whose contents are unspecified, nor of the truncation mark, which the next one covers. -/
def Obligations.ResetOperation : Prop :=
  ∀ s : State, ∃ t : State, exec .reset s = .next t ∧
    t.block.phase = .idle ∧ t.block.fcode = .none ∧ t.block.pos = 0 ∧ t.block.snapN = 0 ∧
    statusByte t.block = 0x00 ∧ (∀ p, byteOut p t.block = none) ∧ owed t = [] ∧
    t.cfg = s.cfg ∧ t.host = s.host ∧ t.fnResult = s.fnResult ∧
    t.consumer = { s.consumer with cut := t.consumer.cut }

/-- R102 (log 13): the first RESET that finds a wire frame partly sent marks where the stream was cut. A mark that
stands stays as it is, also where a later RESET cuts another frame, and a RESET that cuts nothing marks nothing. -/
def Obligations.ResetMarksTruncation : Prop :=
  ∀ s t : State, exec .reset s = .next t →
    t.consumer.cut =
      if s.block.phase = .busy ∧ s.block.pos ≠ 0 ∧ s.consumer.cut = none then some (stream s).length
      else s.consumer.cut

/-! ### STATUS -/

/-- R72: READ_STATUS returns STATUS and changes no state of the block, in every phase. -/
def Obligations.ReadStatusReturnsStatus : Prop :=
  ∀ s : State, ∃ t : State, exec .readStatus s = .next t ∧
    t.host.status = some (((fcodeCode s.block.fcode).setWidth 8 <<< 2) ||| (phaseCode s.block.phase).setWidth 8) ∧
    t.block = s.block ∧ t.cfg = s.cfg ∧ t.consumer = s.consumer ∧ t.fnResult = s.fnResult ∧ t.draws = s.draws ∧
    t.host.script = s.host.script ∧ t.host.offer = s.host.offer

/-- R14, R17, R18: the fields of STATUS, and the four values it takes in a state that keeps R21. -/
def Obligations.StatusFieldsAndValues : Prop :=
  ∀ b : Block,
    (statusByte b).extractLsb' 0 2 = phaseCode b.phase ∧ (statusByte b).extractLsb' 2 2 = fcodeCode b.fcode ∧
    (statusByte b).extractLsb' 4 4 = 0 ∧
    (blockInv b →
      (b.phase = .idle ∧ statusByte b = 0x00) ∨ (b.phase = .busy ∧ statusByte b = 0x01) ∨
      (b.phase = .fault ∧ b.fcode = .emptyFrame ∧ statusByte b = 0x06) ∨
      (b.phase = .fault ∧ b.fcode = .frameTooLong ∧ statusByte b = 0x0A))

/-! ### SUBMIT_FRAME -/

/-- R70, R25, R33: an encodable frame submitted in IDLE is accepted: the snapshot is the whole frame, without alpha,
POS is 0 and PHASE is BUSY; nothing else changes, but that the host has no submission pending, whichever was pending
before (the model's choice, log 9). -/
def Obligations.SubmitLoadsSnapshot : Prop :=
  ∀ (s : State) (colors : List Color),
    s.cfg.wf = true → s.block.phase = .idle → 1 ≤ colors.length → colors.length ≤ 2730 →
    exec (.submitFrame colors) s = .next
      { s with
        block :=
          { phase := .busy
            snap := colors.map (fun c => { r := c.r, g := c.g, b := c.b })
            snapN := colors.length
            pos := 0
            fcode := s.block.fcode }
        host := { s.host with offer := none } }

/-- R90, R91, R93: a frame with no LED, or with more than 2730, raises its fault: FCODE and PHASE are written, POS and
snapN cleared, SNAP not loaded, no byte emitted, the submission consumed, and STATUS reads `0x06` or `0x0A`. That a
submission pending from before is gone with it is the model's choice (log 9). -/
def Obligations.SubmitRaisesFault : Prop :=
  ∀ (s : State) (colors : List Color),
    s.cfg.wf = true → s.block.phase = .idle → (colors.length = 0 ∨ 2730 < colors.length) →
    ∃ t : State, exec (.submitFrame colors) s = .next t ∧
      t.block.phase = .fault ∧
      t.block.fcode = (if colors.length = 0 then FCode.emptyFrame else FCode.frameTooLong) ∧
      t.block.pos = 0 ∧ t.block.snapN = 0 ∧ t.block.snap = s.block.snap ∧
      statusByte t.block = (if colors.length = 0 then 0x06 else 0x0A) ∧
      t.host = { s.host with offer := none } ∧ t.consumer = s.consumer ∧ owed t = [] ∧
      t.cfg = s.cfg ∧ t.fnResult = s.fnResult ∧ t.draws = s.draws

/-- R73, R74: a submission offered while BUSY or FAULT is not accepted; the block's state is unchanged and the
submission is pending at the host, in place of one pending before (the model's choice, log 9). -/
def Obligations.SubmitHeldUnlessIdle : Prop :=
  ∀ (s : State) (colors : List Color),
    s.cfg.wf = true → s.block.phase ≠ .idle →
    exec (.submitFrame colors) s = .next { s with host := { s.host with offer := some colors } }

/-! ### EMIT_BYTE -/

/-- R71, R16: in BUSY, EMIT_BYTE delivers `W[POS]` and nothing else to the consumer; POS advances by exactly 1, or,
after the last byte, which encodes bit 0 of the last LED's blue channel, PHASE returns to IDLE. It cannot fail. -/
def Obligations.EmitDeliversNextByte : Prop :=
  ∀ s : State, s.cfg.wf = true → blockInv s.block → s.block.phase = .busy →
    ∃ (v : Byte) (t : State),
      (headerBytes s.cfg s.block.snapN ++ payloadSymbols s.cfg s.block.snap)[s.block.pos.toNat]? = some v ∧
      exec .emitByte s = .next t ∧
      t.consumer = { s.consumer with inbox := s.consumer.inbox ++ [v] } ∧
      t.cfg = s.cfg ∧ t.host = s.host ∧ t.fnResult = s.fnResult ∧
      s.block.pos.toNat ≤ 65522 ∧
      (s.block.pos.toNat + 1 = 24 * s.block.snapN + 3 →
        t.block.phase = .idle ∧ t.block.pos = 0 ∧ t.block.snapN = 0 ∧ t.block.fcode = s.block.fcode ∧
        ∀ c, s.block.snap[s.block.snapN - 1]? = some c → v = sym s.cfg (c.b.getLsbD 0)) ∧
      (s.block.pos.toNat + 1 ≠ 24 * s.block.snapN + 3 →
        t.block = { s.block with pos := t.block.pos } ∧ t.block.pos.toNat = s.block.pos.toNat + 1 ∧
        t.draws = s.draws)

/-- R75, R69: in IDLE and in FAULT no byte is offered and EMIT_BYTE has no step. That an attempt at it answers a next
state in which nothing changed is the model's reading (log 10). -/
def Obligations.EmitHasNoStepUnlessBusy : Prop :=
  ∀ s : State, s.block.phase ≠ .busy →
    (∀ p, byteOut p s.block = none) ∧ (s.cfg.wf = true → exec .emitByte s = .next s)

/-- The model's stop (log 15): BUSY without a whole frame, which no run reaches, has no byte to give. -/
def Obligations.EmitStopsInInconsistentState : Prop :=
  ∀ s : State, s.cfg.wf = true → s.block.phase = .busy →
    (s.block.snapN = 0 ∨ 2730 < s.block.snapN ∨ s.block.snap.length ≠ s.block.snapN ∨
      24 * s.block.snapN + 3 ≤ s.block.pos.toNat) →
    exec .emitByte s = .fault .inconsistentFrameState

/-! ### Frames and whole-machine rules -/

/-- The frame of the port operations: what SUBMIT_FRAME, EMIT_BYTE, READ_STATUS and RESET leave unchanged whenever
they answer a next state (R19, R67 to R72, R93, R101). -/
def Obligations.PortOperationsFrame : Prop :=
  ∀ (s t : State) (i : Instr),
    (i = .emitByte ∨ i = .readStatus ∨ i = .reset ∨ ∃ colors, i = .submitFrame colors) → exec i s = .next t →
    t.cfg = s.cfg ∧ t.fnResult = s.fnResult ∧ t.host.script = s.host.script ∧
    t.consumer.decoded = s.consumer.decoded ∧ t.consumer.stage = s.consumer.stage ∧
    t.consumer.bits = s.consumer.bits ∧
    (i ≠ .readStatus → t.host.status = s.host.status) ∧
    (i ≠ .emitByte → t.consumer.inbox = s.consumer.inbox) ∧
    (i ≠ .reset → t.consumer.cut = s.consumer.cut) ∧
    ((∀ colors, i ≠ .submitFrame colors) → t.host.offer = s.host.offer) ∧
    (i = .emitByte → t.block.fcode = s.block.fcode)

/-- The frame of the internal functions: none writes any state but the place of its result (R67, log 14). -/
def Obligations.EncoderFunctionsFrame : Prop :=
  ∀ (s t : State) (i : Instr),
    ((∃ b, i = .encodeChannelByte b) ∨ (∃ c, i = .encodeLed c) ∨ (∃ cs, i = .encodePayload cs) ∨
      (∃ n, i = .encodeHeader n) ∨ (∃ f, i = .encodeFrame f)) →
    exec i s = .next t → t = { s with fnResult := t.fnResult }

/-- The frame of the wire tokens: they change the consumer's position and bits alone (R55, R56, log 12). -/
def Obligations.WireTokensFrame : Prop :=
  ∀ (s t : State) (i : Instr),
    ((∃ len, i = .cmdClockOut len) ∨ i = .symZero ∨ i = .symOne) → exec i s = .next t →
    t = { s with consumer := { s.consumer with stage := t.consumer.stage, bits := t.consumer.bits } }

/-- R16: only EMIT_BYTE, SUBMIT_FRAME and RESET change POS. -/
def Obligations.OnlyThreeOperationsMovePos : Prop :=
  ∀ (s t : State) (i : Instr), exec i s = .next t → t.block.pos ≠ s.block.pos →
    i = .emitByte ∨ i = .reset ∨ ∃ colors, i = .submitFrame colors

/-- R89, R90, R91: only SUBMIT_FRAME raises a fault, and only for its two causes. -/
def Obligations.OnlySubmitRaises : Prop :=
  ∀ (s t : State) (i : Instr), exec i s = .next t → s.block.phase ≠ .fault → t.block.phase = .fault →
    ∃ colors, i = .submitFrame colors ∧
      ((colors.length = 0 ∧ t.block.fcode = .emptyFrame) ∨ (2730 < colors.length ∧ t.block.fcode = .frameTooLong))

/-- R94: a fault is sticky: no operation but RESET changes anything of the block while PHASE = FAULT. -/
def Obligations.FaultIsSticky : Prop :=
  ∀ (s t : State) (i : Instr), s.block.phase = .fault → i ≠ .reset → exec i s = .next t → t.block = s.block

/-- R19: the configuration is constant over every step. -/
def Obligations.ConfigurationConstant : Prop :=
  ∀ s t : State, step s = .next t → t.cfg = s.cfg

/-- R5 (log 6): under a configuration whose symbols are equal, every operation but the two that the spec enables
always is refused. -/
def Obligations.IllFormedConfigurationRefused : Prop :=
  ∀ (s : State) (i : Instr), s.cfg.symZero = s.cfg.symOne → i ≠ .readStatus → i ≠ .reset →
    exec i s = .refused .illFormedConfiguration

/-! ### Invariants -/

/-- R21: the block keeps its invariants: they hold after reset, and every step keeps them, from every state. -/
def Obligations.BlockInvariantsKept : Prop :=
  blockInv State.reset.block ∧ ∀ s t : State, blockInv s.block → step s = .next t → blockInv t.block

/-- The whole machine's invariant holds at reset (R5, R21, R22, R103). That the consumer starts with nothing accepted
and nothing cut is the model's choice (log 23), and its decoder and its mark are the model's too (logs 12, 13). -/
def Obligations.InvariantAtReset : Prop := Inv State.reset

/-- Every step keeps the whole machine's invariant (R21, R34, R35, R102, R107): in particular, as long as no frame was
truncated, what the consumer has accepted and what the block still owes are whole frames of the wire language. The
consumer's position is that of the model's decoder (log 12), and the mark of a truncation is the model's (log 13). -/
def Obligations.InvariantKept : Prop :=
  ∀ s t : State, Inv s → step s = .next t → Inv t

/-- R107, R34, R50: from a state of the invariant in which no frame was truncated, the consumer never meets bytes
outside the wire language, nor a token out of place. The consumer and the names of its refusals are the model's
(logs 12, 13). -/
def Obligations.ConsumerKeepsCommandBoundary : Prop :=
  ∀ s : State, Inv s → s.consumer.cut = none →
    (∀ why, step s ≠ .refused (.outsideWireLanguage why)) ∧ step s ≠ .refused .afterTruncation ∧
    step s ≠ .refused .tokenOutOfPlace

/-! ### Whole frames -/

/-- R77: the bytes delivered after an accepted submission are exactly ENCODE_FRAME of the frame, in order, whatever
else but RESET happens in between: after `m` of the `24 n + 3` EMIT_BYTE steps the consumer has the first `m`, and
exactly that many steps bring PHASE back to IDLE. -/
def Obligations.WholeFrameDelivered : Prop :=
  ∀ (s : State) (f : Frame),
    s.cfg.wf = true → s.block.phase = .idle → 1 ≤ f.colors.length → f.colors.length ≤ 2730 →
    ∃ (w : List Byte) (t : State),
      frameEncoding s.cfg f = .ok w ∧ w.length = 24 * f.colors.length + 3 ∧
      exec (.submitFrame f.colors) s = .next t ∧
      (∀ (ops : List Instr) (u : State), Instr.reset ∉ ops → ops.count .emitByte ≤ 24 * f.colors.length + 3 →
        execAll ops t = .next u → stream u = stream s ++ w.take (ops.count .emitByte)) ∧
      (∀ k, k < 24 * f.colors.length + 3 → ∃ u, emitTimes k t = .next u ∧ u.block.phase = .busy) ∧
      (∃ u, emitTimes (24 * f.colors.length + 3) t = .next u ∧ u.block.phase = .idle)

/-- R36: when PHASE is IDLE again after an accepted submission, with no RESET in between, every byte of the frame
has been accepted by the consumer. -/
def Obligations.IdleMeansFrameOut : Prop :=
  ∀ (s t u : State) (f : Frame) (w : List Byte) (ops : List Instr),
    s.block.phase = .idle → frameEncoding s.cfg f = .ok w → exec (.submitFrame f.colors) s = .next t →
    Instr.reset ∉ ops → execAll ops t = .next u → u.block.phase = .idle →
    ∃ more, stream u = stream s ++ w ++ more

/-- R23, R11, R65: what a frame's bytes are depends on its transmitted channels and the configuration alone: not on
alpha, nor on anything the machine did before. -/
def Obligations.NothingKeptBetweenFrames : Prop :=
  ∀ (s s' t t' : State) (colors colors' : List Color) (k : Nat),
    s.block.phase = .idle → s'.block.phase = .idle → s.cfg = s'.cfg →
    colors.map toRgb = colors'.map toRgb →
    exec (.submitFrame colors) s = .next t → exec (.submitFrame colors') s' = .next t' →
    ∀ u u', emitTimes k t = .next u → emitTimes k t' = .next u' →
      ∃ bs, stream u = stream s ++ bs ∧ stream u' = stream s' ++ bs

/-- R82, R109: the slots of one Player iteration, run by the step, take one step for the submission and `24 n + 3`
for the bytes; they deliver the whole wire frame, leave PHASE = IDLE, and leave the rest of the script. The script,
the bytes of the submission and the slots of an iteration are the model's (logs 1, 2, 19). -/
def Obligations.PlayerIterationSendsFrame : Prop :=
  ∀ (s : State) (f : Frame) (rest : List Slot) (w : List Byte),
    s.cfg.wf = true → s.block.phase = .idle → s.host.script = frameSlots f ++ rest →
    frameEncoding s.cfg f = .ok w →
    ∃ u, repeatOp step (24 * f.colors.length + 4) s = .next u ∧ stream u = stream s ++ w ∧
      u.block.phase = .idle ∧ u.host.script = rest

/-- R45, R48, R28 to R30: the consumer at a command boundary with nothing undecoded, after a whole frame, reads one
header token and `24 n` symbols, and has then recovered every bit of the frame: per LED in index order green, red and
blue, each most significant bit first. -/
def Obligations.ConsumerRecoversFrame : Prop :=
  ∀ (s t u : State) (colors : List Color),
    s.cfg.wf = true → s.block.phase = .idle → s.consumer.cut = none → s.consumer.inbox = [] →
    s.consumer.stage = .boundary → 1 ≤ colors.length → colors.length ≤ 2730 →
    exec (.submitFrame colors) s = .next t → emitTimes (24 * colors.length + 3) t = .next u →
    ∃ v, receiveTimes (24 * colors.length + 1) u = .next v ∧
      v.consumer.bits = frameBits (colors.map toRgb) ∧ v.consumer.stage = .boundary ∧ v.consumer.inbox = []

/-! ### The wire format -/

/-- R39 to R43, R46, R48: the layout of a wire frame, and its length as a decoder reads it off the header. -/
def Obligations.WireFrameLayout : Prop :=
  ∀ (p : Params) (cs : List Rgb), 1 ≤ cs.length → cs.length ≤ 2730 →
    ∃ (lo hi : Byte) (payload : List Byte),
      wireFrame p cs.length cs = p.opcode :: lo :: hi :: payload ∧
      payload.length = 24 * cs.length ∧
      lo.toNat = (24 * cs.length - 1) % 256 ∧ hi.toNat = (24 * cs.length - 1) / 256 ∧
      23 ≤ 24 * cs.length - 1 ∧ 24 * cs.length - 1 ≤ 65519 ∧
      (wireFrame p cs.length cs).length = 24 * cs.length + 3 ∧
      3 + (lo.toNat + 256 * hi.toNat) + 1 = (wireFrame p cs.length cs).length

/-- R44: the closed form of the payload. -/
def Obligations.PayloadClosedForm : Prop :=
  ∀ (p : Params) (n : Nat) (cs : List Rgb) (k : Nat) (c : Rgb), cs[k / 24]? = some c →
    (wireFrame p n cs)[3 + k]? =
      some (sym p ((channel c (Fin.ofNat 3 ((k % 24) / 8))).getLsbD (7 - k % 8)))

/-- R45: every payload byte is one of the two symbols. -/
def Obligations.PayloadOnlySymbols : Prop :=
  ∀ (p : Params) (cs : List Rgb) (b : Byte), b ∈ payloadSymbols p cs → b = p.symZero ∨ b = p.symOne

/-- R50: a wire frame the block can send lies in the wire language, as a whole and at a command boundary. -/
def Obligations.WireFrameInLanguage : Prop :=
  ∀ (p : Params) (cs : List Rgb), 1 ≤ cs.length → cs.length ≤ 2730 →
    wireAdmits p .boundary (wireFrame p cs.length cs) = true

/-- R78: the counters that may stand in place of a stored `W` offer the same byte at every position. -/
def Obligations.CountersOfferSameBytes : Prop :=
  ∀ (p : Params) (cs : List Rgb) (k : Nat), k < 24 * cs.length + 3 →
    ∃ v, countersByte p cs.length cs (countersAt k) = some v ∧ (wireFrame p cs.length cs)[k]? = some v

/-! ### The internal functions -/

/-- R54, R57: ENCODE_CHANNEL_BYTE completes on every byte with exactly 8 symbols, and symbol `i` encodes `b[7 - i]`. -/
def Obligations.ChannelByteResult : Prop :=
  ∀ (s : State) (b : Byte), s.cfg.wf = true →
    ∃ syms : List Byte, exec (.encodeChannelByte b) s = .next { s with fnResult := some (.bytes syms) } ∧
      syms.length = 8 ∧
      ∀ i, i < 8 → syms[i]? = some (if b.getLsbD (7 - i) then s.cfg.symOne else s.cfg.symZero)

/-- R58: the symbols of a byte determine it, and count its bits. -/
def Obligations.ChannelByteInvertible : Prop :=
  ∀ (p : Params) (b : Byte), p.symZero ≠ p.symOne →
    symbolsToByte p (channelByteSymbols p b) = b ∧
    (∀ i, i < 8 → ((channelByteSymbols p b)[i]? = some p.symOne ↔ b.getLsbD (7 - i) = true)) ∧
    (channelByteSymbols p b).count p.symOne = (bitsMsbFirst b).count true ∧
    (channelByteSymbols p b).count p.symZero = 8 - (bitsMsbFirst b).count true

/-- R60, R61: ENCODE_LED completes with the symbols of green, then red, then blue; alpha is not read. -/
def Obligations.LedResult : Prop :=
  ∀ (s : State) (c : Color), s.cfg.wf = true →
    exec (.encodeLed c) s = .next
      { s with
        fnResult := some (.bytes
          (channelByteSymbols s.cfg c.g ++ channelByteSymbols s.cfg c.r ++ channelByteSymbols s.cfg c.b)) } ∧
    ∀ a : Byte, exec (.encodeLed { c with a := a }) s = exec (.encodeLed c) s

/-- R62: ENCODE_PAYLOAD completes with `24 n` bytes, the 24 of LED `j` at `24 j`. -/
def Obligations.PayloadResult : Prop :=
  ∀ (s : State) (colors : List Color), s.cfg.wf = true →
    ∃ bs : List Byte, exec (.encodePayload colors) s = .next { s with fnResult := some (.bytes bs) } ∧
      bs.length = 24 * colors.length ∧
      ∀ (j : Nat) (c : Color), colors[j]? = some c →
        (bs.drop (24 * j)).take 24 =
          channelByteSymbols s.cfg c.g ++ channelByteSymbols s.cfg c.r ++ channelByteSymbols s.cfg c.b

/-- R63: ENCODE_HEADER completes on its domain with the opcode and `24 n - 1`, low byte first. -/
def Obligations.HeaderResult : Prop :=
  ∀ (s : State) (n : Nat), s.cfg.wf = true → 1 ≤ n → n ≤ 2730 →
    ∃ lo hi : Byte, exec (.encodeHeader n) s = .next { s with fnResult := some (.bytes [s.cfg.opcode, lo, hi]) } ∧
      lo.toNat + 256 * hi.toNat = 24 * n - 1

/-- R49, R63: outside its domain ENCODE_HEADER is given no bytes: it is refused by name. -/
def Obligations.HeaderOutsideDomainRefused : Prop :=
  ∀ (s : State) (n : Nat), s.cfg.wf = true → (n = 0 ∨ 2730 < n) →
    exec (.encodeHeader n) s = .refused .headerOutOfDomain

/-- R64, R65, R67 (log 11): ENCODE_FRAME completes on every frame: with the header and the payload, `24 n + 3` bytes,
or with the fault it raises as its result; it writes no other state, and reads nothing of the frame but its colours. -/
def Obligations.FrameResult : Prop :=
  ∀ (s : State) (f : Frame), s.cfg.wf = true →
    (1 ≤ f.colors.length → f.colors.length ≤ 2730 →
      ∃ bs : List Byte,
        bs = headerBytes s.cfg f.colors.length ++ payloadSymbols s.cfg (f.colors.map toRgb) ∧
        bs.length = 24 * f.colors.length + 3 ∧
        exec (.encodeFrame f) s = .next { s with fnResult := some (.bytes bs) }) ∧
    (f.colors.length = 0 → exec (.encodeFrame f) s = .next { s with fnResult := some (.raised .emptyFrame) }) ∧
    (2730 < f.colors.length →
      exec (.encodeFrame f) s = .next { s with fnResult := some (.raised .frameTooLong) }) ∧
    (∀ g : Frame, g.colors = f.colors → exec (.encodeFrame g) s = exec (.encodeFrame f) s)

/-! ### The wire tokens -/

/-- R39, R48, R50 (log 12): at a command boundary, CMD_CLOCK_OUT with a length a wire frame can carry opens a payload
of `L + 1` bytes. -/
def Obligations.HeaderTokenOpensPayload : Prop :=
  ∀ (s : State) (len : Half),
    s.cfg.wf = true → s.consumer.stage = .boundary → 23 ≤ len.toNat → len.toNat ≤ 65519 → (len.toNat + 1) % 24 = 0 →
    exec (.cmdClockOut len) s = .next
      { s with consumer := { s.consumer with stage := .payload (len.toNat + 1), bits := [] } }

/-- R55, R56 (log 12): in a payload, SYM_ZERO adds a 0 and SYM_ONE a 1 to the bits recovered, and the last symbol of
a payload brings the consumer back to a command boundary. -/
def Obligations.SymbolTokensAddBits : Prop :=
  ∀ (s : State) (left : Nat),
    s.cfg.wf = true → s.consumer.stage = .payload (left + 1) →
    (∀ (i : Instr) (bit : Bool), (i = .symZero ∧ bit = false) ∨ (i = .symOne ∧ bit = true) →
      exec i s = .next
        { s with
          consumer :=
            { s.consumer with
              stage := if left = 0 then .boundary else .payload left
              bits := s.consumer.bits ++ [bit] } })

/-- R48, R50, R55 (log 12): a token at a position where it cannot stand, and a header with a length no wire frame
carries, are refused by name. -/
def Obligations.MisplacedTokensRefused : Prop :=
  ∀ s : State, s.cfg.wf = true →
    (s.consumer.stage = .boundary →
      exec .symZero s = .refused .tokenOutOfPlace ∧ exec .symOne s = .refused .tokenOutOfPlace) ∧
    (∀ (left : Nat) (len : Half), s.consumer.stage = .payload left →
      exec (.cmdClockOut len) s = .refused .tokenOutOfPlace) ∧
    (∀ len : Half, s.consumer.stage = .boundary →
      len.toNat < 23 ∨ 65519 < len.toNat ∨ (len.toNat + 1) % 24 ≠ 0 →
      exec (.cmdClockOut len) s = .refused (.outsideWireLanguage .badLength))

/-! ### Encodings -/

/-- Decoding what the encoder writes gives the operation back, for every well-formed operation, under every
well-formed configuration, with any bytes after it (R39, R51, R55, R56; the byte order of a count is log 2, the operands
of the internal functions are log 3). -/
def Obligations.DecodeEncodeAgree : Prop :=
  ∀ (p : Params) (i : Instr) (rest : List Byte), p.wf = true → i.wf = true →
    decode p i.port i.inPayload (encode p i ++ rest) = .ok (i, rest)

/-- The other direction, at every port (R39, R51, R55, R56; the operands of the internal functions are log 3): what
was decoded encodes to the bytes it was read from. At the status port a word does not stand for more than a read
request, so there the statement says which words are one (R17, R18, U4, log 4): bits 7 to 4 are 0, and neither FCODE
nor PHASE is 3. -/
def Obligations.EncodeDecodeAgree : Prop :=
  ∀ (p : Params) (inPayload : Bool),
    (∀ (port : Port) (bs rest : List Byte) (i : Instr),
      port ≠ .status → decode p port inPayload bs = .ok (i, rest) → encode p i ++ rest = bs) ∧
    (∀ (b : Byte) (rest : List Byte),
      decode p .status inPayload (b :: rest) =
        if b.toNat / 16 = 0 ∧ b.toNat / 4 % 4 ≠ 3 ∧ b.toNat % 4 ≠ 3 then .ok (.readStatus, rest)
        else .error .reservedStatus) ∧
    decode p .status inPayload [] = .error .short

/-- What the decoder reads is well-formed and belongs where it was read: a header's length is one of R50, a count fits
its field (R51), and ENCODE_HEADER's operand lies in its domain (R63). The ports of the internal functions, and the 32
bits a hold fits in, are the model's choice (log 3). -/
def Obligations.DecodedIsWellFormed : Prop :=
  ∀ (p : Params) (port : Port) (inPayload : Bool) (bs rest : List Byte) (i : Instr),
    decode p port inPayload bs = .ok (i, rest) →
    i.wf = true ∧ i.port = port ∧ (port = .wire → i.inPayload = inPayload)

/-- Words written out bit by bit are the operations they stand for: a header and the two symbols (R39, R55, R56), an
input transaction (R51) with the model's low byte first in its count (log 2), the word `0x06` (R18) taken as the request
of a status read (log 4), and the two operations without operand. -/
def Obligations.SampleWordsDecode : Prop :=
  ∀ p : Params, p.symZero ≠ p.symOne →
    decode p .wire false [p.opcode, 0x9F, 0x05] = .ok (.cmdClockOut 1439, []) ∧
    decode p .wire true [p.symZero] = .ok (.symZero, []) ∧
    decode p .wire true [p.symOne] = .ok (.symOne, []) ∧
    decode p .frameIn false [0x01, 0x00, 0xFF, 0x00, 0x00, 0xFF] =
      .ok (.submitFrame [{ r := 0xFF, g := 0x00, b := 0x00 }], []) ∧
    decode p .status false [0x06] = .ok (.readStatus, []) ∧
    decode p .rst false [] = .ok (.reset, []) ∧ decode p .byteOut false [] = .ok (.emitByte, [])

/-! ### The host -/

/-- R82, R83, R85, for the model's Player (log 19): an animation of allowed frames of one length, every write a
success, makes one write of the whole wire frame per frame, in order, takes the holds one after the other, and ends in
Idle with nothing to report. -/
def Obligations.PlayWritesEveryFrame : Prop :=
  ∀ (p : Params) (frames : List Frame) (reports : List Bool),
    frames.all frameAllowed = true → animationUniform frames = true → frames.length ≤ reports.length →
    (∀ r ∈ reports, r = true) →
    play p frames reports =
      { phase := .idle
        frames := []
        writes := frames.map (fun f => wireFrame p f.colors.length (f.colors.map toRgb))
        clock := (frames.map Frame.holdDurationMs).sum
        report := none }

/-- R84, R85, for the model's Player (log 19): when the write of frame `k`, counted from 1, is the first to fail,
exactly `k` writes are attempted, the holds of the frames before it alone are taken, nothing is retried, and the Player
is Idle with the failure reported. -/
def Obligations.PlayStopsAtFailedWrite : Prop :=
  ∀ (p : Params) (frames : List Frame) (k : Nat) (later : List Bool),
    frames.all frameAllowed = true → animationUniform frames = true → 1 ≤ k → k ≤ frames.length →
    play p frames (List.replicate (k - 1) true ++ false :: later) =
      { phase := .idle
        frames := []
        writes := (frames.take k).map (fun f => wireFrame p f.colors.length (f.colors.map toRgb))
        clock := ((frames.take (k - 1)).map Frame.holdDurationMs).sum
        report := some .transportWriteFailure }

/-- R79, R80, R96, R108, for the model's Player (log 19): an animation with a frame of no LED or of more than 2730, or
with two frames of different lengths, is reported as InvalidArgument, whatever the Transport would report, with nothing
written and no hold taken; and a Player that comes to a frame it cannot encode ends the same way, without a write. -/
def Obligations.PlayReportsInvalidAnimation : Prop :=
  (∀ (p : Params) (frames : List Frame) (reports : List Bool),
    ((∃ f ∈ frames, f.colors.length = 0 ∨ 2730 < f.colors.length) ∨
      ∃ f ∈ frames, ∃ g ∈ frames, f.colors.length ≠ g.colors.length) →
    play p frames reports =
      { phase := .idle, frames := [], writes := [], clock := 0, report := some .invalidArgument }) ∧
  (∀ (p : Params) (written : Bool) (pl : Player) (f : Frame) (later : List Frame),
    pl.frames = f :: later → (f.colors.length = 0 ∨ 2730 < f.colors.length) →
    playFrame p written pl = { pl with phase := .idle, frames := [], report := some .invalidArgument })

/-- R81 (log 19): a partial update made into a full colour array has the update's length, each LED with the colour of
its own or else with its colour in the prior frame; and it cannot be made exactly when some LED has neither. -/
def Obligations.PartialUpdateResolved : Prop :=
  ∀ (prior : List Color) (update : List (Option Color)),
    (∀ full, resolvePrevious prior update = some full →
      full.length = update.length ∧
      ∀ j : Nat, (∀ c, update[j]? = some (some c) → full[j]? = some c) ∧
        (update[j]? = some none → full[j]? = prior[j]?)) ∧
    (resolvePrevious prior update = none ↔ ∃ j : Nat, update[j]? = some none ∧ prior.length ≤ j)
end

