-- ==== Sys2Proof/Laws/Config.lean ====
section
/-! SUPPORT. The configuration the machine is built with is well-formed, whatever its OPEN values are (R5). -/

namespace Sys2Proof

theorem params_wf_iff (p : Params) : p.wf = true ↔ p.symZero ≠ p.symOne := by
  simp [Params.wf]

theorem config_params_wf : Config.params.wf = true := by
  rw [params_wf_iff]
  intro h
  have hlt := Config.openSymOneOffset.isLt
  have hz := Config.openSymZero.isLt
  have h' := congrArg BitVec.toNat h
  simp only [Config.params, BitVec.toNat_add, BitVec.toNat_ofNat] at h'
  omega

end Sys2Proof
end

