-- ==== Sys2Proof/Laws/Encoder.lean ====
section
/-! SUPPORT. The lengths of what BitEncoder and FrameEncoder produce, and when a frame is accepted (R6, R13, R41). -/

namespace Sys2Proof.Machine

theorem maxLeds_eq : maxLeds = 2730 := rfl

theorem wireLength_eq (n : Nat) : wireLength n = 24 * n + 3 := rfl

theorem encodable_iff (n : Nat) : encodable n = true ↔ 1 ≤ n ∧ n ≤ 2730 := by
  simp only [encodable, Bool.and_eq_true, decide_eq_true_eq]
  rw [maxLeds_eq]

@[simp] theorem channelByteSymbols_length (p : Params) (b : Byte) : (channelByteSymbols p b).length = 8 := rfl

theorem channelByteSymbols_eq_map (p : Params) (b : Byte) :
    channelByteSymbols p b = (bitsMsbFirst b).map (sym p) := rfl

@[simp] theorem ledSymbols_length (p : Params) (c : Rgb) : (ledSymbols p c).length = 24 := rfl

theorem ledSymbols_eq_map (p : Params) (c : Rgb) : ledSymbols p c = (ledBits c).map (sym p) := rfl

@[simp] theorem payloadSymbols_nil (p : Params) : payloadSymbols p [] = [] := rfl

@[simp] theorem payloadSymbols_cons (p : Params) (c : Rgb) (cs : List Rgb) :
    payloadSymbols p (c :: cs) = ledSymbols p c ++ payloadSymbols p cs := rfl

theorem payloadSymbols_length (p : Params) (cs : List Rgb) : (payloadSymbols p cs).length = 24 * cs.length := by
  induction cs with
  | nil => rfl
  | cons c cs ih => simp [ih]; omega

@[simp] theorem headerBytes_length (p : Params) (n : Nat) : (headerBytes p n).length = 3 := rfl

theorem wireFrame_length (p : Params) (n : Nat) (cs : List Rgb) :
    (wireFrame p n cs).length = 24 * cs.length + 3 := by
  simp [wireFrame, payloadSymbols_length]; omega

theorem frameFault_eq_none_iff (n : Nat) : frameFault n = none ↔ 1 ≤ n ∧ n ≤ 2730 := by
  unfold frameFault maxLeds
  split
  · simp; omega
  · split <;> simp <;> omega

theorem frameFault_cases (n : Nat) :
    (n = 0 ∧ frameFault n = some .emptyFrame) ∨ (2730 < n ∧ frameFault n = some .frameTooLong) ∨
      (1 ≤ n ∧ n ≤ 2730 ∧ frameFault n = none) := by
  unfold frameFault maxLeds
  split
  · exact .inl ⟨‹_›, rfl⟩
  · split
    · exact .inr (.inl ⟨‹_›, rfl⟩)
    · exact .inr (.inr ⟨by omega, by omega, rfl⟩)

end Sys2Proof.Machine
end

