-- ==== Sys2Proof/Laws/State.lean ====
section
/-! SUPPORT. What each named update of the state leaves in each field: one lemma per field per update, so that no
proof unfolds a record update. -/

namespace Sys2Proof.Machine

/-! ### withBlock -/

@[simp] theorem withBlock_block (s : State) (b : Block) : (withBlock s b).block = b := rfl
@[simp] theorem withBlock_cfg (s : State) (b : Block) : (withBlock s b).cfg = s.cfg := rfl
@[simp] theorem withBlock_host (s : State) (b : Block) : (withBlock s b).host = s.host := rfl
@[simp] theorem withBlock_consumer (s : State) (b : Block) : (withBlock s b).consumer = s.consumer := rfl
@[simp] theorem withBlock_fnResult (s : State) (b : Block) : (withBlock s b).fnResult = s.fnResult := rfl
@[simp] theorem withBlock_draws (s : State) (b : Block) : (withBlock s b).draws = s.draws := rfl

/-! ### withHost -/

@[simp] theorem withHost_block (s : State) (h : HostSide) : (withHost s h).block = s.block := rfl
@[simp] theorem withHost_cfg (s : State) (h : HostSide) : (withHost s h).cfg = s.cfg := rfl
@[simp] theorem withHost_host (s : State) (h : HostSide) : (withHost s h).host = h := rfl
@[simp] theorem withHost_consumer (s : State) (h : HostSide) : (withHost s h).consumer = s.consumer := rfl
@[simp] theorem withHost_fnResult (s : State) (h : HostSide) : (withHost s h).fnResult = s.fnResult := rfl
@[simp] theorem withHost_draws (s : State) (h : HostSide) : (withHost s h).draws = s.draws := rfl

/-! ### withConsumer -/

@[simp] theorem withConsumer_block (s : State) (c : Consumer) : (withConsumer s c).block = s.block := rfl
@[simp] theorem withConsumer_cfg (s : State) (c : Consumer) : (withConsumer s c).cfg = s.cfg := rfl
@[simp] theorem withConsumer_host (s : State) (c : Consumer) : (withConsumer s c).host = s.host := rfl
@[simp] theorem withConsumer_consumer (s : State) (c : Consumer) : (withConsumer s c).consumer = c := rfl
@[simp] theorem withConsumer_fnResult (s : State) (c : Consumer) : (withConsumer s c).fnResult = s.fnResult := rfl
@[simp] theorem withConsumer_draws (s : State) (c : Consumer) : (withConsumer s c).draws = s.draws := rfl

/-! ### withResult -/

@[simp] theorem withResult_block (s : State) (r : FnResult) : (withResult s r).block = s.block := rfl
@[simp] theorem withResult_cfg (s : State) (r : FnResult) : (withResult s r).cfg = s.cfg := rfl
@[simp] theorem withResult_host (s : State) (r : FnResult) : (withResult s r).host = s.host := rfl
@[simp] theorem withResult_consumer (s : State) (r : FnResult) : (withResult s r).consumer = s.consumer := rfl
@[simp] theorem withResult_fnResult (s : State) (r : FnResult) : (withResult s r).fnResult = some r := rfl
@[simp] theorem withResult_draws (s : State) (r : FnResult) : (withResult s r).draws = s.draws := rfl

/-! ### withScript -/

@[simp] theorem withScript_block (s : State) (v : List Slot) : (withScript s v).block = s.block := rfl
@[simp] theorem withScript_cfg (s : State) (v : List Slot) : (withScript s v).cfg = s.cfg := rfl
@[simp] theorem withScript_host_script (s : State) (v : List Slot) : (withScript s v).host.script = v := rfl
@[simp] theorem withScript_host_offer (s : State) (v : List Slot) : (withScript s v).host.offer = s.host.offer := rfl
@[simp] theorem withScript_host_status (s : State) (v : List Slot) : (withScript s v).host.status = s.host.status := rfl
@[simp] theorem withScript_consumer (s : State) (v : List Slot) : (withScript s v).consumer = s.consumer := rfl
@[simp] theorem withScript_fnResult (s : State) (v : List Slot) : (withScript s v).fnResult = s.fnResult := rfl
@[simp] theorem withScript_draws (s : State) (v : List Slot) : (withScript s v).draws = s.draws := rfl

/-! ### withOffer -/

@[simp] theorem withOffer_block (s : State) (v : Option (List Color)) : (withOffer s v).block = s.block := rfl
@[simp] theorem withOffer_cfg (s : State) (v : Option (List Color)) : (withOffer s v).cfg = s.cfg := rfl
@[simp] theorem withOffer_host_script (s : State) (v : Option (List Color)) : (withOffer s v).host.script = s.host.script := rfl
@[simp] theorem withOffer_host_offer (s : State) (v : Option (List Color)) : (withOffer s v).host.offer = v := rfl
@[simp] theorem withOffer_host_status (s : State) (v : Option (List Color)) : (withOffer s v).host.status = s.host.status := rfl
@[simp] theorem withOffer_consumer (s : State) (v : Option (List Color)) : (withOffer s v).consumer = s.consumer := rfl
@[simp] theorem withOffer_fnResult (s : State) (v : Option (List Color)) : (withOffer s v).fnResult = s.fnResult := rfl
@[simp] theorem withOffer_draws (s : State) (v : Option (List Color)) : (withOffer s v).draws = s.draws := rfl

/-! ### withStatus -/

@[simp] theorem withStatus_block (s : State) (v : Byte) : (withStatus s v).block = s.block := rfl
@[simp] theorem withStatus_cfg (s : State) (v : Byte) : (withStatus s v).cfg = s.cfg := rfl
@[simp] theorem withStatus_host_script (s : State) (v : Byte) : (withStatus s v).host.script = s.host.script := rfl
@[simp] theorem withStatus_host_offer (s : State) (v : Byte) : (withStatus s v).host.offer = s.host.offer := rfl
@[simp] theorem withStatus_host_status (s : State) (v : Byte) : (withStatus s v).host.status = some v := rfl
@[simp] theorem withStatus_consumer (s : State) (v : Byte) : (withStatus s v).consumer = s.consumer := rfl
@[simp] theorem withStatus_fnResult (s : State) (v : Byte) : (withStatus s v).fnResult = s.fnResult := rfl
@[simp] theorem withStatus_draws (s : State) (v : Byte) : (withStatus s v).draws = s.draws := rfl

end Sys2Proof.Machine
end

