-- ==== Sys2Proof/Laws/Ops.lean ====
section
/-! SUPPORT. For each shared operation, once: everything it can do. -/

namespace Sys2Proof.Machine

/-! ### The configuration check -/

theorem withConfig_of_wf {s : State} {a : Answer} (h : s.cfg.wf = true) : withConfig s a = a := by
  simp [withConfig, h]

/-- If an operation under the check answers a next state, the configuration is well-formed and the operation itself
answers it. -/
theorem withConfig_next {s t : State} {a : Answer} (h : withConfig s a = .next t) : s.cfg.wf = true ∧ a = .next t := by
  unfold withConfig at h
  split at h
  · exact ⟨‹_›, h⟩
  · cases h

/-! ### Faults and reset -/

theorem raiseFault_block (s : State) (code : FCode) :
    (raiseFault s code).block = { phase := .fault, snap := s.block.snap, snapN := 0, pos := 0, fcode := code } := rfl

@[simp] theorem raiseFault_cfg (s : State) (code : FCode) : (raiseFault s code).cfg = s.cfg := rfl
@[simp] theorem raiseFault_consumer (s : State) (code : FCode) : (raiseFault s code).consumer = s.consumer := rfl
@[simp] theorem raiseFault_fnResult (s : State) (code : FCode) : (raiseFault s code).fnResult = s.fnResult := rfl
@[simp] theorem raiseFault_draws (s : State) (code : FCode) : (raiseFault s code).draws = s.draws := rfl

@[simp] theorem forgetSnap_cfg (s : State) : (forgetSnap s).cfg = s.cfg := rfl
@[simp] theorem forgetSnap_host (s : State) : (forgetSnap s).host = s.host := rfl
@[simp] theorem forgetSnap_consumer (s : State) : (forgetSnap s).consumer = s.consumer := rfl
@[simp] theorem forgetSnap_fnResult (s : State) : (forgetSnap s).fnResult = s.fnResult := rfl
@[simp] theorem forgetSnap_phase (s : State) : (forgetSnap s).block.phase = s.block.phase := rfl
@[simp] theorem forgetSnap_snapN (s : State) : (forgetSnap s).block.snapN = s.block.snapN := rfl
@[simp] theorem forgetSnap_pos (s : State) : (forgetSnap s).block.pos = s.block.pos := rfl
@[simp] theorem forgetSnap_fcode (s : State) : (forgetSnap s).block.fcode = s.block.fcode := rfl

@[simp] theorem markCut_inbox (c : Consumer) : (markCut c).inbox = c.inbox := by
  unfold markCut; split <;> rfl
@[simp] theorem markCut_decoded (c : Consumer) : (markCut c).decoded = c.decoded := by
  unfold markCut; split <;> rfl
@[simp] theorem markCut_stage (c : Consumer) : (markCut c).stage = c.stage := by
  unfold markCut; split <;> rfl
@[simp] theorem markCut_bits (c : Consumer) : (markCut c).bits = c.bits := by
  unfold markCut; split <;> rfl
theorem markCut_cut_ne_none (c : Consumer) : (markCut c).cut ≠ none := by
  unfold markCut; split <;> simp_all

@[simp] theorem resetBlock_phase (s : State) : (resetBlock s).block.phase = .idle := by
  unfold resetBlock; dsimp only; split <;> rfl
@[simp] theorem resetBlock_fcode (s : State) : (resetBlock s).block.fcode = .none := by
  unfold resetBlock; dsimp only; split <;> rfl
@[simp] theorem resetBlock_pos (s : State) : (resetBlock s).block.pos = 0 := by
  unfold resetBlock; dsimp only; split <;> rfl
@[simp] theorem resetBlock_snapN (s : State) : (resetBlock s).block.snapN = 0 := by
  unfold resetBlock; dsimp only; split <;> rfl
@[simp] theorem resetBlock_cfg (s : State) : (resetBlock s).cfg = s.cfg := by
  unfold resetBlock; dsimp only; split <;> rfl
@[simp] theorem resetBlock_host (s : State) : (resetBlock s).host = s.host := by
  unfold resetBlock; dsimp only; split <;> rfl
@[simp] theorem resetBlock_fnResult (s : State) : (resetBlock s).fnResult = s.fnResult := by
  unfold resetBlock; dsimp only; split <;> rfl
theorem resetBlock_consumer (s : State) :
    (resetBlock s).consumer = if frameInFlight s.block then markCut s.consumer else s.consumer := by
  unfold resetBlock; dsimp only; split <;> rfl

/-! ### The frame in flight -/

theorem loadFrame_block (s : State) (colors : List Color) :
    (loadFrame s colors).block =
      { phase := .busy, snap := colors.map toRgb, snapN := colors.length, pos := 0, fcode := s.block.fcode } := rfl

@[simp] theorem loadFrame_cfg (s : State) (colors : List Color) : (loadFrame s colors).cfg = s.cfg := rfl
@[simp] theorem loadFrame_consumer (s : State) (colors : List Color) : (loadFrame s colors).consumer = s.consumer := rfl
@[simp] theorem loadFrame_fnResult (s : State) (colors : List Color) : (loadFrame s colors).fnResult = s.fnResult := rfl
@[simp] theorem loadFrame_draws (s : State) (colors : List Color) : (loadFrame s colors).draws = s.draws := rfl

theorem frameHeld_iff (b : Block) :
    frameHeld b = true ↔ (1 ≤ b.snapN ∧ b.snapN ≤ 2730) ∧ b.snap.length = b.snapN ∧ b.pos.toNat < 24 * b.snapN + 3 := by
  simp only [frameHeld, Bool.and_eq_true, encodable_iff, decide_eq_true_eq, and_assoc]
  rw [wireLength_eq]

/-- If the block offers a byte, it is BUSY, holds a frame, and the byte is `W[POS]`. -/
theorem byteOut_some {p : Params} {b : Block} {v : Byte} (h : byteOut p b = some v) :
    b.phase = .busy ∧ frameHeld b = true ∧ (wireFrame p b.snapN b.snap)[b.pos.toNat]? = some v := by
  unfold byteOut byteOutValid at h
  split at h
  · rename_i hc
    simp only [Bool.and_eq_true, decide_eq_true_eq] at hc
    exact ⟨hc.1, hc.2, h⟩
  · cases h

/-- A BUSY block that holds a frame offers a byte. -/
theorem byteOut_of_held {p : Params} {b : Block} (hb : b.phase = .busy) (hh : frameHeld b = true) :
    ∃ v, byteOut p b = some v := by
  have hl : b.pos.toNat < (wireFrame p b.snapN b.snap).length := by
    have := (frameHeld_iff b).1 hh
    rw [wireFrame_length]; omega
  refine ⟨(wireFrame p b.snapN b.snap)[b.pos.toNat], ?_⟩
  simp [byteOut, byteOutValid, hb, hh, List.getElem?_eq_getElem hl]

@[simp] theorem advance_cfg (s : State) : (advance s).cfg = s.cfg := by unfold advance; split <;> rfl
@[simp] theorem advance_host (s : State) : (advance s).host = s.host := by unfold advance; split <;> rfl
@[simp] theorem advance_consumer (s : State) : (advance s).consumer = s.consumer := by unfold advance; split <;> rfl
@[simp] theorem advance_fnResult (s : State) : (advance s).fnResult = s.fnResult := by unfold advance; split <;> rfl
@[simp] theorem advance_fcode (s : State) : (advance s).block.fcode = s.block.fcode := by unfold advance; split <;> rfl

theorem advance_last {s : State} (h : s.block.pos.toNat + 1 = 24 * s.block.snapN + 3) :
    (advance s).block.phase = .idle ∧ (advance s).block.pos = 0 ∧ (advance s).block.snapN = 0 := by
  rw [advance, if_pos (show _ = wireLength _ from h)]
  exact ⟨rfl, rfl, rfl⟩

theorem advance_more {s : State} (h : s.block.pos.toNat + 1 ≠ 24 * s.block.snapN + 3) :
    advance s = withBlock s { s.block with pos := s.block.pos + 1 } := by
  rw [advance, if_neg (show ¬ _ = wireLength _ from h)]

/-! ### The consumer's decoder -/

@[simp] theorem accept_inbox (c : Consumer) (b : Byte) : (accept c b).inbox = c.inbox ++ [b] := rfl
@[simp] theorem accept_decoded (c : Consumer) (b : Byte) : (accept c b).decoded = c.decoded := rfl
@[simp] theorem accept_stage (c : Consumer) (b : Byte) : (accept c b).stage = c.stage := rfl
@[simp] theorem accept_bits (c : Consumer) (b : Byte) : (accept c b).bits = c.bits := rfl
@[simp] theorem accept_cut (c : Consumer) (b : Byte) : (accept c b).cut = c.cut := rfl

theorem takeBytes_stream (c : Consumer) (n : Nat) :
    (takeBytes c n).decoded ++ (takeBytes c n).inbox = c.decoded ++ c.inbox := by
  simp [takeBytes]

theorem takeBytes_acceptedCount (c : Consumer) (n : Nat) : acceptedCount (takeBytes c n) = acceptedCount c := by
  simp [takeBytes, acceptedCount]; omega

/-- If a symbol is taken, a payload was open, one bit is added, and one byte less is to come. -/
theorem takeSymbol_next {s t : State} {bit : Bool} (h : takeSymbol s bit = .next t) :
    ∃ left, s.consumer.stage = .payload (left + 1) ∧
      t = withConsumer s { s.consumer with
        stage := if left = 0 then .boundary else .payload left, bits := s.consumer.bits ++ [bit] } := by
  unfold takeSymbol at h
  split at h
  · rename_i left hs
    injection h with h
    exact ⟨left, hs, h.symm⟩
  · cases h
  · cases h

end Sys2Proof.Machine
end

