-- ==== Sys2Proof/Laws/PerInstr.lean ====
section
/-! SUPPORT. A statement about every operation as syntax: how many bytes it has at its port (R39, R51, R55, R56). -/

namespace Sys2Proof

/-- How many bytes an operation has at its port. -/
def byteLength : Instr → Nat
  | .cmdClockOut _ => 3
  | .symZero => 1
  | .symOne => 1
  | .submitFrame colors => 2 + 4 * colors.length
  | .emitByte => 0
  | .readStatus => 1
  | .reset => 0
  | .encodeChannelByte _ => 1
  | .encodeLed _ => 4
  | .encodePayload colors => 2 + 4 * colors.length
  | .encodeHeader _ => 2
  | .encodeFrame f => 7 + 4 * f.colors.length

theorem natBytes_length (k v : Nat) : (natBytes k v).length = k := by
  induction k generalizing v with
  | zero => rfl
  | succ k ih => simp [natBytes, ih]

theorem flatMap_colorBytes_length (cs : List Color) : (cs.flatMap colorBytes).length = 4 * cs.length := by
  induction cs with
  | nil => rfl
  | cons c cs ih => rw [List.flatMap_cons, List.length_append, ih]; simp [colorBytes]; omega

theorem countedBytes_length (cs : List Color) : (countedBytes cs).length = 2 + 4 * cs.length := by
  rw [countedBytes, List.length_append, natBytes_length, flatMap_colorBytes_length]

end Sys2Proof

namespace Sys2Proof.Laws.EncodeLength

/-- The encoder writes exactly the bytes an operation has at its port, under any configuration. -/
def Statement (i : Instr) : Prop := ∀ p : Params, (encode p i).length = byteLength i

theorem cmdClockOut (len : Half) : Statement (.cmdClockOut len) := fun _ => rfl
theorem symZero : Statement .symZero := fun _ => rfl
theorem symOne : Statement .symOne := fun _ => rfl
theorem submitFrame (colors : List Color) : Statement (.submitFrame colors) := fun _ => countedBytes_length colors
theorem emitByte : Statement .emitByte := fun _ => rfl
theorem readStatus : Statement .readStatus := fun _ => rfl
theorem reset : Statement .reset := fun _ => rfl
theorem encodeChannelByte (b : Byte) : Statement (.encodeChannelByte b) := fun _ => rfl
theorem encodeLed (c : Color) : Statement (.encodeLed c) := fun _ => rfl
theorem encodePayload (colors : List Color) : Statement (.encodePayload colors) := fun _ => countedBytes_length colors
theorem encodeHeader (n : Nat) : Statement (.encodeHeader n) := fun _ => natBytes_length 2 n
theorem encodeFrame (f : Frame) : Statement (.encodeFrame f) := fun _ => by
  simp [encode, byteLength, countedBytes_length, natBytes_length]; omega

end Sys2Proof.Laws.EncodeLength
end

