-- ==== Sys2Proof/Laws/Schedule.lean ====
section
/-! SUPPORT. What EMIT_BYTE, SUBMIT_FRAME, a fetch and a transaction can do, once each; the step on a slot of one
transaction; and the induction over a step, packaged: what every transaction and every submission keeps, a step keeps. -/

namespace Sys2Proof.Machine

/-- If EMIT_BYTE answers a next state, either no byte was offered and nothing changed (R75), or the byte `W[POS]` was
delivered and the block advanced (R71). -/
theorem exec_emitByte_next {s t : State} (h : exec .emitByte s = .next t) :
    s.cfg.wf = true ∧
      ((s.block.phase ≠ .busy ∧ t = s) ∨
        ∃ v, s.block.phase = .busy ∧ frameHeld s.block = true ∧
          (wireFrame s.cfg s.block.snapN s.block.snap)[s.block.pos.toNat]? = some v ∧
          t = advance (withConsumer s (accept s.consumer v))) := by
  obtain ⟨hw, h⟩ := withConfig_next (a := _) h
  refine ⟨hw, ?_⟩
  split at h
  · split at h
    · rename_i v hv
      injection h with h
      have hb := byteOut_some hv
      exact .inr ⟨v, hb.1, hb.2.1, hb.2.2, h.symm⟩
    · cases h
  · rename_i hb
    injection h with h
    exact .inl ⟨by simpa [byteOutValid] using hb, h.symm⟩

/-- If SUBMIT_FRAME answers a next state, it was held (R73, R74), raised one of its two faults (R90, R91), or was
accepted (R70). -/
theorem exec_submitFrame_next {s t : State} {colors : List Color} (h : exec (.submitFrame colors) s = .next t) :
    s.cfg.wf = true ∧
      ((s.block.phase ≠ .idle ∧ t = withOffer s (some colors)) ∨
        (s.block.phase = .idle ∧ colors.length = 0 ∧ t = raiseFault s .emptyFrame) ∨
        (s.block.phase = .idle ∧ 2730 < colors.length ∧ t = raiseFault s .frameTooLong) ∨
        (s.block.phase = .idle ∧ 1 ≤ colors.length ∧ colors.length ≤ 2730 ∧ t = loadFrame s colors)) := by
  obtain ⟨hw, h⟩ := withConfig_next (a := _) h
  refine ⟨hw, ?_⟩
  by_cases hi : s.block.phase = .idle
  · simp only [frameInReady, hi, decide_true, if_true] at h
    rcases frameFault_cases colors.length with ⟨h0, hf⟩ | ⟨h0, hf⟩ | ⟨h0, h1, hf⟩ <;>
      simp only [hf] at h <;> injection h with h <;> subst h <;> tauto
  · simp only [frameInReady, hi, decide_false, Bool.false_eq_true, if_false] at h
    injection h with h
    exact .inl ⟨hi, h.symm⟩

/-- If a fetch brings an operation, either it was read from the bytes of a transaction, all of them, and the state is
as it was, or the consumer took it off its stream (R48). -/
theorem fetch_ready {t : Transaction} {s s' : State} {i : Instr} (h : fetch t s = .ready i s') :
    (t.port ≠ .wire ∧ decode s.cfg t.port false t.bytes = .ok (i, []) ∧ s' = s) ∨
      (t.port = .wire ∧ ∃ rest,
        decode s.cfg .wire (atPayload s.consumer.stage) (admitted s.consumer) = .ok (i, rest) ∧
        s' = withConsumer s (takeBytes s.consumer ((admitted s.consumer).length - rest.length))) := by
  unfold fetch at h
  split at h
  · rename_i hp
    split at h
    · unfold fetchToken at h
      split at h
      · rename_i i' rest hd
        injection h with h1 h2
        exact .inr ⟨hp, rest, h1 ▸ hd, h2.symm⟩
      · split at h <;> cases h
      · cases h
    · cases h
  · rename_i hp
    unfold fetchTransaction at h
    split at h
    · rename_i i' hd
      injection h with h1 h2
      exact .inl ⟨hp, h1 ▸ hd, h2.symm⟩
    · cases h
    · cases h

/-- If a transaction answers a next state, it waited, or the operation it brought was executed. -/
theorem runTransaction_next {t : Transaction} {s s' : State} (h : runTransaction t s = .next s') :
    s' = s ∨ ∃ i s1, fetch t s = .ready i s1 ∧ exec i s1 = .next s' := by
  unfold runTransaction at h
  split at h
  · rename_i i s1 hf
    exact .inr ⟨i, s1, hf, h⟩
  · injection h with h
    exact .inl h.symm
  · cases h

theorem runAll_keeps {P : State → Prop}
    (hrun : ∀ t s s', P s → runTransaction t s = .next s' → P s') (slot : Slot) :
    ∀ s t, P s → runAll slot s = .next t → P t := by
  induction slot with
  | nil =>
    intro s t hp h
    injection h with h
    exact h ▸ hp
  | cons x xs ih =>
    intro s t hp h
    rw [runAll] at h
    split at h
    · rename_i s1 h1
      exact ih _ _ (hrun _ _ _ hp h1) h
    · cases h
    · cases h

/-- What taking a slot off the script, every transaction and every submission keep, every step keeps. -/
theorem step_keeps {P : State → Prop}
    (hscript : ∀ s r, P s → P (withScript s r))
    (hrun : ∀ t s s', P s → runTransaction t s = .next s' → P s')
    (hsubmit : ∀ colors s s', P s → exec (.submitFrame colors) s = .next s' → P s') :
    ∀ s t, P s → step s = .next t → P t := by
  intro s t hp h
  simp only [step, takeStep] at h
  split at h
  · unfold idleStep at h
    split at h
    · split at h
      · exact hsubmit _ _ _ hp h
      · injection h with h
        exact h ▸ hp
    · injection h with h
      exact h ▸ hp
  · exact runAll_keeps hrun _ _ _ (hscript _ _ hp) h

end Sys2Proof.Machine
end

