-- ==== Sys2Proof/Tests/Slice0.lean ====
section
/-! SUPPORT. The model's own tests. Expected results are those of spec/95_test_vectors.md, or worked by hand from the
rule a test names; concrete bytes use the illustrative configuration X of that file, which is no claim about the
hardware (D29). Then, for each statement with hypotheses, a state and operands that meet them all. -/

namespace Sys2Proof.Tests

open Sys2Proof.Machine

/-- Configuration X of 95_test_vectors.md. -/
def cfgX : Params := { opcode := 0x11, symZero := 0xC0, symOne := 0xF8, spiBitRate := 0, latchGap := 0 }

def rgb (r g b : Byte) : Color := { r := r, g := g, b := b }

def red : Color := rgb 0xFF 0x00 0x00

/-- The state after reset, under configuration X. -/
def sIdle : State := { State.reset with cfg := cfgX }

/-- BUSY with one red LED, at a position. -/
def sBusy (pos : Half) : State :=
  { sIdle with block := { phase := .busy, snap := [toRgb red], snapN := 1, pos := pos, fcode := .none } }

/-- FAULT after an empty frame. -/
def sFault : State := { sIdle with block := { sIdle.block with phase := .fault, fcode := .emptyFrame } }

/-- A configuration that R5 refuses. -/
def sBadCfg : State := { sIdle with cfg := { cfgX with symOne := 0xC0 } }

/-- The consumer inside a payload with `left` bytes to come. -/
def sPayload (left : Nat) : State := { sIdle with consumer := { sIdle.consumer with stage := .payload left } }

/-- The state with one slot of transactions to come. -/
def offering (s : State) (slot : Slot) : State := withScript s [slot]

/-- The next state, if there is one. -/
def nextOf : Answer → Option State
  | .next s => some s
  | .fault _ => none
  | .refused _ => none

/-- PHASE, FCODE, POS and snapN: the columns of 95_test_vectors.md section 4. -/
def regs (s : State) : Phase × FCode × Half × Nat := (s.block.phase, s.block.fcode, s.block.pos, s.block.snapN)

/-! ### Well-formedness: an ill-formed term for each check -/

theorem test_wf_refuses_equal_symbols : ({ cfgX with symOne := 0xC0 } : Params).wf = false := by decide
theorem test_wf_accepts_X : cfgX.wf = true := by decide
theorem test_wf_length_below : (Instr.cmdClockOut 22).wf = false := by decide
theorem test_wf_length_above : (Instr.cmdClockOut 65543).wf = false := by decide
theorem test_wf_length_not_whole_leds : (Instr.cmdClockOut 24).wf = false := by decide
theorem test_wf_count_too_wide : (Instr.submitFrame (List.replicate 65536 red)).wf = false := by
  rw [Instr.wf, countFits, List.length_replicate]; decide
theorem test_wf_payload_too_wide : (Instr.encodePayload (List.replicate 65536 red)).wf = false := by
  rw [Instr.wf, countFits, List.length_replicate]; decide
theorem test_wf_header_domain : (Instr.encodeHeader 0).wf = false ∧ (Instr.encodeHeader 2731).wf = false := by decide
theorem test_wf_hold_too_wide : (Instr.encodeFrame { colors := [], holdDurationMs := 4294967296, usePrevious := false }).wf = false := by
  decide
theorem test_wf_frame_too_wide :
    (Instr.encodeFrame { colors := List.replicate 65536 red, holdDurationMs := 0, usePrevious := false }).wf = false := by
  rw [Instr.wf, countFits, List.length_replicate]; decide

/-! ### Decoding: words written out from the spec's encodings -/

/-- R39, 95 section 3.2 row n = 60: `11 9F 05` under X. -/
theorem test_decode_header : decode cfgX .wire false [0x11, 0x9F, 0x05] = .ok (.cmdClockOut 1439, []) := by decide
/-- R39, row n = 11: the high byte is the third byte. -/
theorem test_decode_header_11 : decode cfgX .wire false [0x11, 0x07, 0x01, 0xF8] = .ok (.cmdClockOut 263, [0xF8]) := by decide
/-- R55, R56 under X. -/
theorem test_decode_symbols :
    decode cfgX .wire true [0xC0] = .ok (.symZero, []) ∧ decode cfgX .wire true [0xF8] = .ok (.symOne, []) := by decide
/-- R55: at a header position the byte of a symbol is no symbol. -/
theorem test_decode_symbol_in_header : decode cfgX .wire false [0xC0] = .error .notCommand := by decide
/-- R50: a payload byte that is neither symbol; a length of no whole LEDs. -/
theorem test_decode_outside_language :
    decode cfgX .wire true [0x11] = .error .notSymbol ∧ decode cfgX .wire false [0x11, 0x18, 0x00] = .error .badLength := by
  decide
/-- R51, program P1: led_count 1, then r, g, b, a. -/
theorem test_decode_submit :
    decode cfgX .frameIn false [0x01, 0x00, 0x12, 0x34, 0x56, 0xFF] = .ok (.submitFrame [rgb 0x12 0x34 0x56], []) := by decide
/-- R51: fewer records than `led_count` cannot be written down. -/
theorem test_decode_submit_short : decode cfgX .frameIn false [0x02, 0x00, 1, 2, 3, 4] = .error .short := by decide
/-- R18, U4: the fault of program P3; bits 7 to 4, FCODE 3 and PHASE `0b11` are never produced. -/
theorem test_decode_status :
    decode cfgX .status false [0x06] = .ok (.readStatus, []) ∧
    decode cfgX .status false [0x10] = .error .reservedStatus ∧
    decode cfgX .status false [0x0C] = .error .reservedStatus ∧
    decode cfgX .status false [0x03] = .error .reservedStatus := by decide
/-- No operand (R71, R101). -/
theorem test_decode_plain :
    decode cfgX .byteOut false [] = .ok (.emitByte, []) ∧ decode cfgX .rst false [] = .ok (.reset, []) := by decide
/-- The operands of the internal functions (log 3). -/
theorem test_decode_functions :
    decode cfgX .channelByteFn false [0xA5] = .ok (.encodeChannelByte 0xA5, []) ∧
    decode cfgX .ledFn false [0x12, 0x34, 0x56, 0xFF] = .ok (.encodeLed (rgb 0x12 0x34 0x56), []) ∧
    decode cfgX .payloadFn false [0x01, 0x00, 1, 2, 3, 0xFF] = .ok (.encodePayload [rgb 1 2 3], []) ∧
    decode cfgX .headerFn false [0xAA, 0x0A] = .ok (.encodeHeader 2730, []) ∧
    decode cfgX .headerFn false [0xAB, 0x0A] = .error .countOutOfDomain ∧
    decode cfgX .frameFn false [0x00, 0x00, 0x64, 0x00, 0x00, 0x00, 0x01] =
      .ok (.encodeFrame { colors := [], holdDurationMs := 100, usePrevious := true }, []) ∧
    decode cfgX .frameFn false [0x00, 0x00, 0x64, 0x00, 0x00, 0x00, 0x02] = .error .notBool := by decide
/-- Table words: the STATUS row, and an input transaction of two LEDs with zero records. -/
theorem test_table_words :
    decodeTableWord 8 0 = some .readStatus ∧
    decodeTableWord 16 2 =
      some (.submitFrame [{ r := 0, g := 0, b := 0, a := 0 }, { r := 0, g := 0, b := 0, a := 0 }]) := by decide
/-- The next step runs the word placed. -/
theorem test_withFetchWord_runs : step (State.reset.withFetchWord 8 0) = exec .readStatus State.reset := by rfl
theorem test_withFetchWord_header :
    nextOf (step (sIdle.withFetchWord 24 0x059F11)) =
      nextOf (exec (.cmdClockOut 1439)
        (withConsumer sIdle { sIdle.consumer with decoded := [0x11, 0x9F, 0x05] })) := by decide

/-! ### BitEncoder and FrameEncoder (95 sections 2 and 3) -/

theorem test_channelByte_A5 : channelByteSymbols cfgX 0xA5 = [0xF8, 0xC0, 0xF8, 0xC0, 0xC0, 0xF8, 0xC0, 0xF8] := by decide
theorem test_channelByte_80 : channelByteSymbols cfgX 0x80 = [0xF8, 0xC0, 0xC0, 0xC0, 0xC0, 0xC0, 0xC0, 0xC0] := by decide
theorem test_led_red : ledSymbols cfgX (toRgb red) =
    List.replicate 8 0xC0 ++ List.replicate 8 0xF8 ++ List.replicate 8 0xC0 := by decide
theorem test_led_010203 : ledSymbols cfgX (toRgb (rgb 1 2 3)) =
    [0xC0, 0xC0, 0xC0, 0xC0, 0xC0, 0xC0, 0xF8, 0xC0,
     0xC0, 0xC0, 0xC0, 0xC0, 0xC0, 0xC0, 0xC0, 0xF8,
     0xC0, 0xC0, 0xC0, 0xC0, 0xC0, 0xC0, 0xF8, 0xF8] := by decide
theorem test_header_11 : headerBytes cfgX 11 = [0x11, 0x07, 0x01] := by decide
theorem test_header_2730 : headerBytes cfgX 2730 = [0x11, 0xEF, 0xFF] := by decide
theorem test_closed_form : (List.map (payloadByteAt cfgX [toRgb (rgb 0x12 0x34 0x56), toRgb (rgb 0x00 0x80 0x01)])
    [0, 23, 24, 31, 40, 47, 48]) =
    [some 0xC0, some 0xC0, some 0xF8, some 0xC0, some 0xC0, some 0xF8, none] := by decide
theorem test_totalLength : totalLength 0xEF 0xFF = 65523 := by decide
theorem test_symbolsToByte : symbolsToByte cfgX [0xF8, 0xC0, 0xF8, 0xC0, 0xC0, 0xF8, 0xC0, 0xF8] = 0xA5 := by decide

/-- Row `0xA5`, evaluated as an operation. -/
theorem test_exec_channelByte : (nextOf (exec (.encodeChannelByte 0x01) sIdle)).map State.fnResult =
    some (some (.bytes [0xC0, 0xC0, 0xC0, 0xC0, 0xC0, 0xC0, 0xC0, 0xF8])) := by decide
/-- Row green: alpha 0 and green first. -/
theorem test_exec_led : (nextOf (exec (.encodeLed { r := 0, g := 0xFF, b := 0, a := 0 }) sIdle)).map State.fnResult =
    some (some (.bytes (List.replicate 8 0xF8 ++ List.replicate 16 0xC0))) := by decide
/-- R62: no LED, no byte. -/
theorem test_exec_payload_empty : (nextOf (exec (.encodePayload []) sIdle)).map State.fnResult = some (some (.bytes [])) := by
  decide
/-- Row n = 144. -/
theorem test_exec_header : (nextOf (exec (.encodeHeader 144) sIdle)).map State.fnResult =
    some (some (.bytes [0x11, 0x7F, 0x0D])) := by decide
/-- The example of R64. -/
theorem test_exec_frame :
    (nextOf (exec (.encodeFrame { colors := [red], holdDurationMs := 7, usePrevious := true }) sIdle)).map State.fnResult =
    some (some (.bytes
      ([0x11, 0x17, 0x00] ++ List.replicate 8 0xC0 ++ List.replicate 8 0xF8 ++ List.replicate 8 0xC0))) := by decide
/-- R64, R67: an empty frame is a fault as a result, and the block stays as it was. -/
theorem test_exec_frame_empty :
    (nextOf (exec (.encodeFrame { colors := [], holdDurationMs := 0, usePrevious := false }) (sBusy 5))).map
      (fun t => (t.fnResult, t.block == (sBusy 5).block)) = some (some (.raised .emptyFrame), true) := by decide

/-! ### Port operations (95 section 4) -/

theorem test_submit : (nextOf (exec (.submitFrame [red]) sIdle)).map (fun t => (regs t, statusByte t.block)) =
    some ((.busy, .none, 0, 1), 0x01) := by decide
theorem test_submit_empty : (nextOf (exec (.submitFrame []) sIdle)).map (fun t => (regs t, statusByte t.block)) =
    some ((.fault, .emptyFrame, 0, 0), 0x06) := by decide
theorem test_submit_too_long :
    (nextOf (exec (.submitFrame (List.replicate 2731 red)) sIdle)).map (fun t => (regs t, statusByte t.block)) =
    some ((.fault, .frameTooLong, 0, 0), 0x0A) := by
  have hf : frameFault (List.replicate 2731 red).length = some .frameTooLong := by rw [List.length_replicate]; rfl
  have hw : sIdle.cfg.wf = true := by decide
  have hi : frameInReady sIdle.block = true := by decide
  simp only [exec, execSubmitFrame, withConfig_of_wf hw, hi, if_true, hf, nextOf, Option.map_some]
  rfl
theorem test_submit_held : (nextOf (exec (.submitFrame [rgb 1 2 3]) (sBusy 10))).map
    (fun t => (regs t, t.host.offer)) = some ((.busy, .none, 10, 1), some [rgb 1 2 3]) := by decide
theorem test_emit_first : (nextOf (exec .emitByte (sBusy 0))).map (fun t => (regs t, t.consumer.inbox)) =
    some ((.busy, .none, 1, 1), [0x11]) := by decide
theorem test_emit_last : (nextOf (exec .emitByte (sBusy 26))).map (fun t => (regs t, t.consumer.inbox)) =
    some ((.idle, .none, 0, 0), [0xC0]) := by decide
theorem test_emit_idle : exec .emitByte sIdle = .next sIdle := by rfl
theorem test_status_fault : (nextOf (exec .readStatus sFault)).map (fun t => (regs t, t.host.status)) =
    some ((.fault, .emptyFrame, 0, 0), some 0x06) := by decide
theorem test_reset_fault : (nextOf (exec .reset sFault)).map (fun t => (regs t, t.consumer.cut)) =
    some ((.idle, .none, 0, 0), none) := by decide
/-- R102: the consumer has 5 bytes when the frame is cut. -/
theorem test_reset_busy :
    (nextOf (exec .reset
      { sBusy 5 with consumer := { sIdle.consumer with inbox := [0x11, 0x17, 0x00, 0xC0, 0xC0] } })).map
      (fun t => (regs t, t.consumer.cut)) = some ((.idle, .none, 0, 0), some 5) := by decide

/-! ### Wire tokens -/

theorem test_header_token : (nextOf (exec (.cmdClockOut 23) sIdle)).map (fun t => t.consumer.stage) =
    some (.payload 24) := by decide
theorem test_symbol_last : (nextOf (exec .symOne (sPayload 1))).map (fun t => (t.consumer.stage, t.consumer.bits)) =
    some (.boundary, [true]) := by decide
theorem test_symbol_zero : (nextOf (exec .symZero (sPayload 2))).map (fun t => (t.consumer.stage, t.consumer.bits)) =
    some (.payload 1, [false]) := by decide

/-! ### The step -/

/-- R92: RESET wins over a submission offered with it. -/
theorem test_step_reset_wins :
    (nextOf (step (offering sIdle [{ port := .frameIn, bytes := [0x00, 0x00] }, { port := .rst, bytes := [] }]))).map regs =
    some (.idle, .none, 0, 0) := by decide
/-- R92: the status read sees the state before. -/
theorem test_step_status_before :
    (nextOf (step (offering sIdle [{ port := .frameIn, bytes := [0x00, 0x00] }, { port := .status, bytes := [0] }]))).map
      (fun t => (t.block.phase, t.host.status)) = some (.fault, some 0x00) := by decide
/-- R73: the pending submission is accepted when nothing else is offered. -/
theorem test_step_takes_pending :
    (nextOf (step { sIdle with host := { sIdle.host with offer := some [red] } })).map
      (fun t => (t.block.phase, t.host.offer)) = some (.busy, none) := by decide
/-- R102: past the cut there is nothing to read. -/
theorem test_step_after_truncation :
    step (offering { sIdle with consumer := { sIdle.consumer with inbox := [0x11], cut := some 0 } }
      [{ port := .wire, bytes := [] }]) = .refused .afterTruncation := by rfl

/-! ### The host -/

/-- Program P5: two writes, one hold of 100, the failure reported. -/
theorem test_play_P5 :
    (fun pl : Player => (pl.phase, pl.writes.length, pl.clock, pl.report))
      (play cfgX
        [{ colors := [red], holdDurationMs := 100, usePrevious := false },
         { colors := [red], holdDurationMs := 200, usePrevious := false },
         { colors := [red], holdDurationMs := 300, usePrevious := false }] [true, false]) =
    (.idle, 2, 100, some .transportWriteFailure) := by decide
/-- R80: frames of different lengths are reported and nothing is written. -/
theorem test_play_mismatch :
    (fun pl : Player => (pl.writes, pl.report))
      (play cfgX
        [{ colors := [red], holdDurationMs := 1, usePrevious := false },
         { colors := [red, red], holdDurationMs := 1, usePrevious := false }] [true, true]) =
    ([], some .invalidArgument) := by decide
/-- R81. -/
theorem test_resolvePrevious :
    resolvePrevious [rgb 1 1 1, rgb 2 2 2] [none, some (rgb 3 3 3)] = some [rgb 1 1 1, rgb 3 3 3] ∧
    resolvePrevious [] [none] = none := by decide

/-! ### Witnesses: the hypotheses of each statement are met together -/

theorem sIdle_wf : sIdle.cfg.wf = true := by decide

theorem witness_StepRunsTransaction :
    ∃ (s : State) (t : Transaction) (i : Instr), s.host.script = [t] :: [] ∧ t.port ≠ .wire ∧
      decode s.cfg t.port false t.bytes = .ok (i, []) :=
  ⟨offering sIdle [{ port := .byteOut, bytes := [] }], { port := .byteOut, bytes := [] }, .emitByte, rfl, by decide, rfl⟩

/-- The consumer's turn, with these bytes undecoded. -/
def receiving (s : State) (inbox : List Byte) (cut : Option Nat) : State :=
  offering { s with consumer := { s.consumer with inbox := inbox, cut := cut } } [{ port := .wire, bytes := [] }]

theorem witness_StepRunsWireToken :
    (receiving (sPayload 1) [0xF8, 0xC0] none).host.script = [{ port := .wire, bytes := [] }] :: [] ∧
    decode (receiving (sPayload 1) [0xF8, 0xC0] none).cfg .wire
      (atPayload (receiving (sPayload 1) [0xF8, 0xC0] none).consumer.stage)
      (admitted (receiving (sPayload 1) [0xF8, 0xC0] none).consumer) = .ok (.symOne, [0xC0]) := by decide

/-- One witness per answer: waiting, past a cut, outside the language. -/
theorem witness_WireTokenWaitsOrStops :
    (∀ s ∈ [receiving sIdle [0x11] none, receiving sIdle [0x11] (some 0)],
      s.host.script = [{ port := .wire, bytes := [] }] :: [] ∧
      decode s.cfg .wire (atPayload s.consumer.stage) (admitted s.consumer) = .error .short) ∧
    (admitted (receiving sIdle [0x11] (some 0)).consumer).length < (receiving sIdle [0x11] (some 0)).consumer.inbox.length ∧
    decode (receiving sIdle [0x12] none).cfg .wire (atPayload (receiving sIdle [0x12] none).consumer.stage)
      (admitted (receiving sIdle [0x12] none).consumer) = .error .notCommand := by decide

/-- One witness per clause. -/
theorem witness_UndecodableTransactionRefused :
    (∃ (s : State) (t : Transaction) (why : DecodeError), s.host.script = [t] :: [] ∧ t.port ≠ .wire ∧
      decode s.cfg t.port false t.bytes = .error why) ∧
    ∃ (s : State) (t : Transaction) (i : Instr) (b : Byte), s.host.script = [t] :: [] ∧ t.port ≠ .wire ∧
      decode s.cfg t.port false t.bytes = .ok (i, b :: []) :=
  ⟨⟨offering sIdle [{ port := .frameIn, bytes := [0x01] }], { port := .frameIn, bytes := [0x01] }, .short, rfl, by decide, rfl⟩,
    ⟨offering sIdle [{ port := .rst, bytes := [0x01] }], { port := .rst, bytes := [0x01] }, .reset, 0x01, rfl, by decide, rfl⟩⟩

/-- One witness per clause. -/
theorem witness_NothingOfferedTakesPendingSubmission :
    ({ sIdle with host := { sIdle.host with offer := some [red] } } : State).host.script = [] ∧
    sIdle.block.phase = .idle ∧ sIdle.host.offer = none ∧ (sBusy 0).host.script = [] ∧ (sBusy 0).block.phase ≠ .idle := by
  decide

theorem witness_ResetWinsOverOthers :
    ∃ slot : Slot, (offering sIdle slot).host.script = slot :: [] ∧ (∃ t ∈ slot, t.port = .rst) ∧
      (∀ t ∈ slot, t.port = .rst → t.bytes = []) ∧
      (∀ t ∈ slot, t.port = .status → decode (offering sIdle slot).cfg .status false t.bytes = .ok (.readStatus, [])) :=
  ⟨[{ port := .status, bytes := [0x06] }, { port := .byteOut, bytes := [] }, { port := .rst, bytes := [] }],
    rfl, by decide, by decide, by decide⟩

/-- Three transactions, the status read last. -/
theorem witness_StatusReadSeesStateBefore :
    ∃ slot : Slot, (offering sIdle slot).host.script = slot :: [] ∧ (∃ t ∈ slot, t.port = .status) ∧
      (∀ t ∈ slot, t.port ≠ .rst) ∧
      (∀ t ∈ slot, t.port = .status → decode (offering sIdle slot).cfg .status false t.bytes = .ok (.readStatus, [])) :=
  ⟨[{ port := .frameIn, bytes := [0x00, 0x00] }, { port := .byteOut, bytes := [] }, { port := .status, bytes := [0x01] }],
    rfl, by decide, by decide, by decide⟩

/-- A slot of two, a part that goes on, and a part that stops. -/
theorem witness_SlotTakenInOrder :
    (∃ slot : Slot, slot.length = 2 ∧ (offering sIdle slot).host.script = slot :: [] ∧
      ∀ t ∈ slot, t.port ≠ .status ∧ t.port ≠ .rst) ∧
    (∃ t, runAll [{ port := .byteOut, bytes := [] }] sIdle = .next t) ∧
    ∀ t, runAll [{ port := .frameIn, bytes := [] }] sIdle ≠ .next t :=
  ⟨⟨[{ port := .frameIn, bytes := [0x00, 0x00] }, { port := .byteOut, bytes := [] }], rfl, rfl, by decide⟩,
    ⟨_, rfl⟩, fun _ h => nomatch h⟩

/-- The first cut is marked; a mark that stands stays, also where another frame is cut; nothing sent, nothing marked. -/
theorem witness_ResetMarksTruncation :
    (∃ t, exec .reset (sBusy 5) = .next t ∧ t.consumer.cut = some 0) ∧
    (∃ t, exec .reset { sBusy 5 with consumer := { sIdle.consumer with inbox := [0x11], cut := some 0 } } = .next t ∧
      t.consumer.cut = some 0) ∧
    ∃ t, exec .reset (sBusy 0) = .next t ∧ t.consumer.cut = none := ⟨⟨_, rfl, rfl⟩, ⟨_, rfl, rfl⟩, ⟨_, rfl, rfl⟩⟩

theorem witness_StatusFieldsAndValues :
    blockInv sIdle.block ∧ blockInv (sBusy 0).block ∧ blockInv sFault.block :=
  ⟨rfl, ⟨rfl, by decide, by decide, by decide, rfl⟩, .inl rfl⟩

/-- The smallest and the largest frame accepted. -/
theorem witness_SubmitLoadsSnapshot :
    sIdle.cfg.wf = true ∧ sIdle.block.phase = .idle ∧ 1 ≤ [red].length ∧ (List.replicate 2730 red).length ≤ 2730 :=
  ⟨by decide, rfl, by decide, by rw [List.length_replicate]⟩

theorem witness_SubmitRaisesFault :
    sIdle.cfg.wf = true ∧ sIdle.block.phase = .idle ∧ ([] : List Color).length = 0 ∧
    2730 < (List.replicate 2731 red).length := ⟨by decide, rfl, rfl, by rw [List.length_replicate]; decide⟩

theorem witness_SubmitHeldUnlessIdle :
    (sBusy 10).cfg.wf = true ∧ (sBusy 10).block.phase ≠ .idle ∧ sFault.cfg.wf = true ∧ sFault.block.phase ≠ .idle := by decide

/-- A position before the last byte, and the last. -/
theorem witness_EmitDeliversNextByte :
    (sBusy 25).cfg.wf = true ∧ blockInv (sBusy 25).block ∧ (sBusy 25).block.phase = .busy ∧
    (25#16).toNat + 1 ≠ 24 * 1 + 3 ∧ blockInv (sBusy 26).block ∧ (26#16).toNat + 1 = 24 * 1 + 3 :=
  ⟨by decide, ⟨rfl, by decide, by decide, by decide, rfl⟩, rfl, by decide,
    ⟨rfl, by decide, by decide, by decide, rfl⟩, by decide⟩

theorem witness_EmitHasNoStepUnlessBusy :
    sIdle.block.phase ≠ .busy ∧ sFault.block.phase ≠ .busy ∧ sIdle.cfg.wf = true := by decide

/-- One witness per clause: no LED, too many, a wrong snapshot, a position at the end. -/
theorem witness_EmitStopsInInconsistentState :
    (sBusy 27).cfg.wf = true ∧ (sBusy 27).block.phase = .busy ∧ 24 * (sBusy 27).block.snapN + 3 ≤ (sBusy 27).block.pos.toNat ∧
    ({ (sBusy 0).block with snapN := 0 } : Block).snapN = 0 ∧
    2730 < ({ (sBusy 0).block with snapN := 2731 } : Block).snapN ∧
    ({ (sBusy 0).block with snap := [] } : Block).snap.length ≠ (sBusy 0).block.snapN := by decide

theorem witness_PortOperationsFrame :
    (∃ t, exec .emitByte (sBusy 0) = .next t) ∧ (∃ t, exec .readStatus sIdle = .next t) ∧
    (∃ t, exec .reset sIdle = .next t) ∧ ∃ t, exec (.submitFrame [red]) sIdle = .next t :=
  ⟨⟨_, rfl⟩, ⟨_, rfl⟩, ⟨_, rfl⟩, ⟨_, rfl⟩⟩

theorem witness_EncoderFunctionsFrame :
    (∃ t, exec (.encodeChannelByte 1) sIdle = .next t) ∧ (∃ t, exec (.encodeLed red) sIdle = .next t) ∧
    (∃ t, exec (.encodePayload [red]) sIdle = .next t) ∧ (∃ t, exec (.encodeHeader 1) sIdle = .next t) ∧
    ∃ t, exec (.encodeFrame { colors := [red], holdDurationMs := 0, usePrevious := false }) sIdle = .next t :=
  ⟨⟨_, rfl⟩, ⟨_, rfl⟩, ⟨_, rfl⟩, ⟨_, rfl⟩, ⟨_, rfl⟩⟩

theorem witness_WireTokensFrame :
    (∃ t, exec (.cmdClockOut 23) sIdle = .next t) ∧ (∃ t, exec .symZero (sPayload 1) = .next t) ∧
    ∃ t, exec .symOne (sPayload 1) = .next t := ⟨⟨_, rfl⟩, ⟨_, rfl⟩, ⟨_, rfl⟩⟩

theorem witness_OnlyThreeOperationsMovePos :
    ∃ t, exec .emitByte (sBusy 0) = .next t ∧ t.block.pos ≠ (sBusy 0).block.pos := ⟨_, rfl, by decide⟩

theorem witness_OnlySubmitRaises :
    ∃ t, exec (.submitFrame []) sIdle = .next t ∧ sIdle.block.phase ≠ .fault ∧ t.block.phase = .fault :=
  ⟨_, rfl, by decide, rfl⟩

theorem witness_FaultIsSticky :
    ∃ t, sFault.block.phase = .fault ∧ Instr.readStatus ≠ .reset ∧ exec .readStatus sFault = .next t :=
  ⟨_, rfl, by decide, rfl⟩

theorem witness_ConfigurationConstant : ∃ t, step (offering sIdle [{ port := .rst, bytes := [] }]) = .next t := ⟨_, rfl⟩

theorem witness_IllFormedConfigurationRefused :
    sBadCfg.cfg.symZero = sBadCfg.cfg.symOne ∧ Instr.emitByte ≠ .readStatus ∧ Instr.emitByte ≠ .reset := by decide

/-- A state in the middle of a frame, with the header's first byte sent and undecoded. -/
def sMid : State := { sBusy 1 with consumer := { sIdle.consumer with inbox := [0x11] } }

theorem sMid_inv : Inv sMid :=
  ⟨by decide, ⟨rfl, by decide, by decide, by decide, rfl⟩, fun _ => ⟨by decide, fun _ h => absurd h (by decide)⟩, trivial⟩

theorem witness_BlockInvariantsKept :
    ∃ t, blockInv sMid.block ∧ step (offering sMid [{ port := .byteOut, bytes := [] }]) = .next t :=
  ⟨_, sMid_inv.2.1, rfl⟩

theorem witness_InvariantKept : ∃ s t, Inv s ∧ step s = .next t := ⟨sMid, _, sMid_inv, rfl⟩

theorem witness_ConsumerKeepsCommandBoundary : Inv sMid ∧ sMid.consumer.cut = none := ⟨sMid_inv, rfl⟩

theorem witness_WholeFrameDelivered :
    sIdle.cfg.wf = true ∧ sIdle.block.phase = .idle ∧ 1 ≤ [red].length ∧ [red].length ≤ 2730 := by decide

/-- A whole small frame, already at its last byte: one step brings PHASE to IDLE. The operations between are those of
a frame of one LED. -/
theorem witness_IdleMeansFrameOut :
    ∃ w t u, sIdle.block.phase = .idle ∧
      frameEncoding sIdle.cfg { colors := [red], holdDurationMs := 0, usePrevious := false } = .ok w ∧
      exec (.submitFrame [red]) sIdle = .next t ∧ Instr.reset ∉ List.replicate 27 Instr.emitByte ∧
      execAll (List.replicate 27 .emitByte) t = .next u ∧ u.block.phase = .idle :=
  ⟨_, _, _, rfl, rfl, rfl, by decide, rfl, rfl⟩

theorem witness_NothingKeptBetweenFrames :
    ∃ t t' u u', sIdle.block.phase = .idle ∧ [red].map toRgb = [{ red with a := 0x00 }].map toRgb ∧
      exec (.submitFrame [red]) sIdle = .next t ∧ exec (.submitFrame [{ red with a := 0x00 }]) sIdle = .next t' ∧
      emitTimes 1 t = .next u ∧ emitTimes 1 t' = .next u' := ⟨_, _, _, _, rfl, rfl, rfl, rfl, rfl, rfl⟩

theorem witness_PlayerIterationSendsFrame :
    ∃ (s : State) (f : Frame) (w : List Byte), s.cfg.wf = true ∧ s.block.phase = .idle ∧
      s.host.script = frameSlots f ++ [] ∧ frameEncoding s.cfg f = .ok w :=
  ⟨withScript sIdle (frameSlots { colors := [red], holdDurationMs := 0, usePrevious := false }),
    { colors := [red], holdDurationMs := 0, usePrevious := false }, _, by decide, rfl, (List.append_nil _).symm, rfl⟩

theorem witness_ConsumerRecoversFrame :
    ∃ t u, sIdle.cfg.wf = true ∧ sIdle.block.phase = .idle ∧ sIdle.consumer.cut = none ∧ sIdle.consumer.inbox = [] ∧
      sIdle.consumer.stage = .boundary ∧ 1 ≤ [red].length ∧ [red].length ≤ 2730 ∧
      exec (.submitFrame [red]) sIdle = .next t ∧ emitTimes (24 * [red].length + 3) t = .next u :=
  ⟨_, _, by decide, rfl, rfl, rfl, rfl, by decide, by decide, rfl, rfl⟩

/-- The shortest frame and the longest. -/
theorem witness_WireFrameLayout :
    1 ≤ [toRgb red].length ∧ [toRgb red].length ≤ 2730 ∧ (List.replicate 2730 (toRgb red)).length ≤ 2730 :=
  ⟨by decide, by decide, by rw [List.length_replicate]⟩

/-- The last byte of the payload of one LED. -/
theorem witness_PayloadClosedForm : [toRgb red][23 / 24]? = some (toRgb red) := by decide

theorem witness_PayloadOnlySymbols : 0xF8 ∈ payloadSymbols cfgX [toRgb red] := by decide

/-- The first byte, the first payload byte and the last byte of a frame of one LED. -/
theorem witness_CountersOfferSameBytes :
    0 < 24 * [toRgb red].length + 3 ∧ 3 < 24 * [toRgb red].length + 3 ∧ 26 < 24 * [toRgb red].length + 3 := by decide

theorem witness_ChannelByteInvertible : cfgX.symZero ≠ cfgX.symOne := by decide

theorem witness_PayloadResult : sIdle.cfg.wf = true ∧ [red, rgb 1 2 3][1]? = some (rgb 1 2 3) := by decide

theorem witness_HeaderResult : sIdle.cfg.wf = true ∧ 1 ≤ 1 ∧ 1 ≤ 2730 ∧ 2730 ≤ 2730 := by decide

theorem witness_HeaderOutsideDomainRefused : sIdle.cfg.wf = true ∧ 2730 < 2731 := by decide

/-- One witness per clause, at the edges: 1, 2730, 0 and 2731 LEDs, and two frames of equal colours. -/
theorem witness_FrameResult :
    sIdle.cfg.wf = true ∧ 1 ≤ [red].length ∧ (List.replicate 2730 red).length ≤ 2730 ∧ ([] : List Color).length = 0 ∧
    2730 < (List.replicate 2731 red).length ∧
    ({ colors := [red], holdDurationMs := 1, usePrevious := true } : Frame).colors =
      ({ colors := [red], holdDurationMs := 0, usePrevious := false } : Frame).colors :=
  ⟨by decide, by decide, by rw [List.length_replicate], rfl, by rw [List.length_replicate]; decide, rfl⟩

/-- The smallest and the largest length field. -/
theorem witness_HeaderTokenOpensPayload :
    sIdle.cfg.wf = true ∧ sIdle.consumer.stage = .boundary ∧
    (23 ≤ (23#16).toNat ∧ (23#16).toNat ≤ 65519 ∧ ((23#16).toNat + 1) % 24 = 0) ∧
    (23 ≤ (65519#16).toNat ∧ (65519#16).toNat ≤ 65519 ∧ ((65519#16).toNat + 1) % 24 = 0) := by decide

/-- The last symbol of a payload, and one before it. -/
theorem witness_SymbolTokensAddBits :
    (sPayload 1).cfg.wf = true ∧ (sPayload 1).consumer.stage = .payload (0 + 1) ∧
    (sPayload 2).consumer.stage = .payload (1 + 1) := by decide

/-- One witness per clause: lengths just below, just above and off the multiples of 24. -/
theorem witness_MisplacedTokensRefused :
    sIdle.cfg.wf = true ∧ sIdle.consumer.stage = .boundary ∧ (sPayload 0).consumer.stage = .payload 0 ∧
    (22#16).toNat < 23 ∧ 65519 < (65520#16).toNat ∧ ((24#16).toNat + 1) % 24 ≠ 0 := by decide

/-- A well-formed operation of every constructor. -/
theorem witness_DecodeEncodeAgree :
    cfgX.wf = true ∧
    ([.cmdClockOut 23, .symZero, .symOne, .submitFrame [red], .emitByte, .readStatus, .reset, .encodeChannelByte 1,
      .encodeLed red, .encodePayload [red], .encodeHeader 2730,
      .encodeFrame { colors := [red], holdDurationMs := 5, usePrevious := true }] : List Instr).all Instr.wf = true := by
  decide

/-- One witness per clause, and at the status port one word per reserved field. -/
theorem witness_EncodeDecodeAgree :
    Port.frameIn ≠ .status ∧ decode cfgX .frameIn false [0x00, 0x00, 0x07] = .ok (.submitFrame [], [0x07]) ∧
    ((0x0A#8).toNat / 16 = 0 ∧ (0x0A#8).toNat / 4 % 4 ≠ 3 ∧ (0x0A#8).toNat % 4 ≠ 3) ∧
    (0x10#8).toNat / 16 ≠ 0 ∧ (0x0C#8).toNat / 4 % 4 = 3 ∧ (0x03#8).toNat % 4 = 3 := by decide

theorem witness_DecodedIsWellFormed : decode cfgX .wire false [0x11, 0x17, 0x00] = .ok (.cmdClockOut 23, []) := by decide

theorem witness_SampleWordsDecode : cfgX.symZero ≠ cfgX.symOne := by decide

theorem witness_PlayWritesEveryFrame :
    ∃ (frames : List Frame) (reports : List Bool), frames.all frameAllowed = true ∧ animationUniform frames = true ∧
      frames.length ≤ reports.length ∧ ∀ r ∈ reports, r = true :=
  ⟨[{ colors := [red], holdDurationMs := 100, usePrevious := false }], [true], by decide, by decide, by decide, by decide⟩

/-- A failure on the first frame and on the last. -/
theorem witness_PlayStopsAtFailedWrite :
    ∃ frames : List Frame, frames.all frameAllowed = true ∧ animationUniform frames = true ∧
      1 ≤ 1 ∧ 1 ≤ frames.length ∧ 1 ≤ 2 ∧ 2 ≤ frames.length :=
  ⟨[{ colors := [red], holdDurationMs := 100, usePrevious := false },
    { colors := [red], holdDurationMs := 200, usePrevious := false }], by decide, by decide, by decide, by decide, by decide,
    by decide⟩

/-- One witness per ground: no LED, too many, two lengths; and a Player that comes to an empty frame. -/
theorem witness_PlayReportsInvalidAnimation :
    (∃ f ∈ [({ colors := [], holdDurationMs := 0, usePrevious := false } : Frame)], f.colors.length = 0) ∧
    2730 < ({ colors := List.replicate 2731 red, holdDurationMs := 0, usePrevious := false } : Frame).colors.length ∧
    (∃ f ∈ [({ colors := [red], holdDurationMs := 0, usePrevious := false } : Frame),
        { colors := [red, red], holdDurationMs := 0, usePrevious := false }],
      ∃ g ∈ [({ colors := [red], holdDurationMs := 0, usePrevious := false } : Frame),
        { colors := [red, red], holdDurationMs := 0, usePrevious := false }], f.colors.length ≠ g.colors.length) ∧
    ∃ (pl : Player) (f : Frame) (frames : List Frame), pl.frames = f :: frames ∧ f.colors.length = 0 :=
  ⟨by decide, by rw [List.length_replicate]; decide, by decide,
    ⟨{ phase := .playing, frames := [{ colors := [], holdDurationMs := 0, usePrevious := false }], writes := [], clock := 0,
       report := none }, { colors := [], holdDurationMs := 0, usePrevious := false }, [], rfl, rfl⟩⟩

/-- A resolved update with an LED of each kind, and an LED with no colour to keep. -/
theorem witness_PartialUpdateResolved :
    resolvePrevious [rgb 1 1 1, rgb 2 2 2] [none, some (rgb 3 3 3)] = some [rgb 1 1 1, rgb 3 3 3] ∧
    ([none, some (rgb 3 3 3)] : List (Option Color))[1]? = some (some (rgb 3 3 3)) ∧
    ([none, some (rgb 3 3 3)] : List (Option Color))[0]? = some none ∧
    ([none] : List (Option Color))[0]? = some none ∧ ([] : List Color).length ≤ 0 := by decide

end Sys2Proof.Tests
end

/-! ### Scope: the configuration check, EMIT_BYTE without a whole frame, and the invariant at reset -/

namespace Sys2Proof.Machine

/-- R5: equal symbols are refused, whatever the operation under the check would answer. -/
theorem withConfig_of_symbols_equal {s : State} (a : Answer) (h : s.cfg.symZero = s.cfg.symOne) :
    withConfig s a = .refused .illFormedConfiguration := by
  have hwf : ¬ s.cfg.wf = true := fun hw => (params_wf_iff _).1 hw h
  exact if_neg hwf

/-- Every operation but the two that are enabled always (R72, R101) stands under the configuration check (log 6). -/
theorem exec_eq_withConfig (s : State) {i : Instr} (hread : i ≠ .readStatus) (hreset : i ≠ .reset) :
    ∃ a, exec i s = withConfig s a := by
  cases i with
  | readStatus => exact absurd rfl hread
  | reset => exact absurd rfl hreset
  | cmdClockOut _ => exact ⟨_, rfl⟩
  | symZero => exact ⟨_, rfl⟩
  | symOne => exact ⟨_, rfl⟩
  | submitFrame _ => exact ⟨_, rfl⟩
  | emitByte => exact ⟨_, rfl⟩
  | encodeChannelByte _ => exact ⟨_, rfl⟩
  | encodeLed _ => exact ⟨_, rfl⟩
  | encodePayload _ => exact ⟨_, rfl⟩
  | encodeHeader _ => exact ⟨_, rfl⟩
  | encodeFrame _ => exact ⟨_, rfl⟩

/-- Settles O27: every operation it speaks of is under the configuration check, which refuses equal symbols. -/
theorem illFormedConfigurationRefused : Obligations.IllFormedConfigurationRefused := by
  intro s i heq hread hreset
  obtain ⟨a, ha⟩ := exec_eq_withConfig s hread hreset
  rw [ha, withConfig_of_symbols_equal a heq]

/-- A block without a whole frame offers no byte. -/
theorem byteOut_of_not_held (p : Params) {b : Block} (h : ¬ frameHeld b = true) : byteOut p b = none := by
  cases hv : byteOut p b with
  | none => rfl
  | some v =>
    obtain ⟨-, hheld, -⟩ := byteOut_some hv
    exact absurd hheld h

/-- BUSY with no byte to offer, EMIT_BYTE stops (log 15). -/
theorem exec_emitByte_of_no_byte {s : State} (hwf : s.cfg.wf = true) (hbusy : s.block.phase = .busy)
    (hnone : byteOut s.cfg s.block = none) : exec .emitByte s = .fault .inconsistentFrameState := by
  have hvalid : byteOutValid s.block = true := decide_eq_true hbusy
  rw [exec, execEmitByte, withConfig_of_wf hwf, if_pos hvalid, hnone]

/-- Settles O19: each of the four causes contradicts what a held frame is, and without one no byte is offered. -/
theorem emitStopsInInconsistentState : Obligations.EmitStopsInInconsistentState := by
  intro s hwf hbusy hcause
  have hheld : ¬ frameHeld s.block = true := by
    rw [frameHeld_iff]
    omega
  exact exec_emitByte_of_no_byte hwf hbusy (byteOut_of_not_held s.cfg hheld)

/-- R21: IDLE without a fault code. -/
theorem blockInv_reset : blockInv State.reset.block := rfl

/-- A block that is not BUSY owes no byte. -/
theorem owed_of_not_busy {s : State} (h : s.block.phase ≠ .busy) : owed s = [] := if_neg h

/-- R34: nothing was accepted and nothing is owed, which is a whole number of frames at a command boundary. -/
theorem linkInv_reset : linkInv State.reset := by
  have hphase : State.reset.block.phase ≠ .busy := Phase.noConfusion
  intro _
  constructor
  · rw [owed_of_not_busy hphase]
    rfl
  · exact fun hbusy => absurd hbusy hphase

/-- Settles O29: the four parts of the invariant, the configuration's from R5 alone (log 6). -/
theorem invariantAtReset : Obligations.InvariantAtReset := by
  have hcut : cutInv State.reset.consumer := trivial
  exact ⟨config_params_wf, blockInv_reset, linkInv_reset, hcut⟩

end Sys2Proof.Machine

/-! ### State: what each operation can do, the block's invariants, POS and the configuration -/

namespace Sys2Proof.Machine

/-- The consumer's position after a token; tied to the model by `exec_token_next`. -/
def stageAfter : WireStage → Instr → WireStage
  | .boundary, .cmdClockOut len => .payload (len.toNat + 1)
  | .payload (left + 1), _ => if left = 0 then .boundary else .payload left
  | st, _ => st

/-- A wire token moves the consumer's position as `stageAfter` says, and leaves its bytes and its mark. -/
theorem exec_token_next {s t : State} {i : Instr} (hwire : i.port = .wire) (h : exec i s = .next t) :
    ∃ bits, t = withConsumer s { s.consumer with stage := stageAfter s.consumer.stage i, bits := bits } := by
  have hsymbol : ∀ bit, takeSymbol s bit = .next t →
      ∃ bits, t = withConsumer s { s.consumer with stage := stageAfter s.consumer.stage i, bits := bits } := by
    intro bit h
    obtain ⟨left, hs, rfl⟩ := takeSymbol_next h
    exact ⟨_, by rw [hs, stageAfter]⟩
  cases i with
  | cmdClockOut len =>
    have h := (withConfig_next h).2
    split at h
    next hs =>
      split at h <;> cases h
      exact ⟨[], by rw [hs, stageAfter]; rfl⟩
    next => cases h
  | symZero => exact hsymbol false (withConfig_next h).2
  | symOne => exact hsymbol true (withConfig_next h).2
  | _ => cases hwire

/-- What an operation that answers a next state has done. EMIT_BYTE, SUBMIT_FRAME and the wire tokens are named only,
since `exec_emitByte_next`, `exec_submitFrame_next` and `exec_token_next` say what they do; RESET and READ_STATUS do
the one thing they can (R72, R101), and an internal function writes its result (R67). -/
theorem exec_next_cases {s t : State} {i : Instr} (h : exec i s = .next t) :
    i = .emitByte ∨ (∃ colors, i = .submitFrame colors) ∨ (i = .reset ∧ t = resetBlock s) ∨ i.port = .wire ∨
      (i = .readStatus ∧ t = withStatus s (statusByte s.block)) ∨ ∃ r, t = withResult s r := by
  cases i with
  | emitByte => exact .inl rfl
  | submitFrame colors => exact .inr (.inl ⟨colors, rfl⟩)
  | reset => cases h; exact .inr (.inr (.inl ⟨rfl, rfl⟩))
  | cmdClockOut | symZero | symOne => exact .inr (.inr (.inr (.inl rfl)))
  | readStatus => cases h; exact .inr (.inr (.inr (.inr (.inl ⟨rfl, rfl⟩))))
  | encodeChannelByte | encodeLed | encodePayload =>
    cases (withConfig_next h).2
    exact .inr (.inr (.inr (.inr (.inr ⟨_, rfl⟩))))
  | encodeHeader | encodeFrame =>
    have h := (withConfig_next h).2
    split at h <;> cases h <;> exact .inr (.inr (.inr (.inr (.inr ⟨_, rfl⟩))))

/-- R67, R72: only EMIT_BYTE, SUBMIT_FRAME and RESET write the block's registers. -/
theorem exec_block_eq_or {s t : State} {i : Instr} (h : exec i s = .next t) :
    i = .emitByte ∨ (∃ colors, i = .submitFrame colors) ∨ (i = .reset ∧ t = resetBlock s) ∨ t.block = s.block := by
  obtain hi | hi | hi | hwire | ⟨-, rfl⟩ | ⟨r, rfl⟩ := exec_next_cases h
  · exact .inl hi
  · exact .inr (.inl hi)
  · exact .inr (.inr (.inl hi))
  · obtain ⟨bits, rfl⟩ := exec_token_next hwire h
    exact .inr (.inr (.inr rfl))
  · exact .inr (.inr (.inr rfl))
  · exact .inr (.inr (.inr rfl))

/-- R19: no operation writes the configuration. -/
theorem exec_cfg {s t : State} {i : Instr} (h : exec i s = .next t) : t.cfg = s.cfg := by
  obtain rfl | ⟨colors, rfl⟩ | ⟨-, rfl⟩ | hwire | ⟨-, rfl⟩ | ⟨r, rfl⟩ := exec_next_cases h
  · obtain ⟨-, ⟨-, rfl⟩ | ⟨v, -, -, -, rfl⟩⟩ := exec_emitByte_next h
    · rfl
    · simp
  · obtain ⟨-, ⟨-, rfl⟩ | ⟨-, -, rfl⟩ | ⟨-, -, rfl⟩ | ⟨-, -, -, rfl⟩⟩ := exec_submitFrame_next h <;> rfl
  · exact resetBlock_cfg s
  · obtain ⟨bits, rfl⟩ := exec_token_next hwire h
    rfl
  · rfl
  · rfl

/-- What the script, the consumer's taking of bytes and every operation keep, every step keeps. -/
theorem step_keeps_of_exec {P : State → Prop}
    (hscript : ∀ s r, P s → P (withScript s r))
    (htake : ∀ s n, P s → P (withConsumer s (takeBytes s.consumer n)))
    (hexec : ∀ i s s', P s → exec i s = .next s' → P s') :
    ∀ s t, P s → step s = .next t → P t := by
  refine step_keeps hscript (fun t s s' hp h => ?_) (fun colors => hexec (.submitFrame colors))
  obtain rfl | ⟨i, s₁, hf, he⟩ := runTransaction_next h
  · exact hp
  obtain ⟨-, -, rfl⟩ | ⟨-, rest, -, rfl⟩ := fetch_ready hf
  · exact hexec _ _ _ hp he
  · exact hexec _ _ _ (htake _ _ hp) he

/-- Settles O26: no operation writes the configuration, nor does the script or the consumer's reading. -/
theorem configurationConstant : Obligations.ConfigurationConstant := by
  intro s t h
  refine step_keeps_of_exec (P := fun u => u.cfg = s.cfg) ?_ ?_ ?_ s t rfl h
  · exact fun u r hu => hu
  · exact fun u n hu => hu
  · exact fun i u u' hu he => (exec_cfg he).trans hu

/-- Settles O23: every other operation leaves the whole block as it was. -/
theorem onlyThreeOperationsMovePos : Obligations.OnlyThreeOperationsMovePos := by
  intro s t i h hpos
  obtain hi | hi | ⟨hi, -⟩ | hb := exec_block_eq_or h
  · exact .inl hi
  · exact .inr (.inr hi)
  · exact .inr (.inl hi)
  · exact absurd (congrArg Block.pos hb) hpos

/-! ### The block's invariants (R21) -/

theorem blockInv_of_idle {b : Block} (hphase : b.phase = .idle) (hcode : b.fcode = .none) : blockInv b := by
  rw [blockInv, hphase]
  exact hcode

theorem blockInv_of_busy {b : Block} (hphase : b.phase = .busy) (hcode : b.fcode = .none)
    (hheld : frameHeld b = true) : blockInv b := by
  obtain ⟨⟨h1, h2⟩, hlen, hpos⟩ := (frameHeld_iff b).1 hheld
  rw [blockInv, hphase]
  exact ⟨hcode, h1, h2, hpos, hlen⟩

/-- R17, R21: outside FAULT no fault is coded. -/
theorem fcode_eq_none {b : Block} (h : blockInv b) (hphase : b.phase ≠ .fault) : b.fcode = .none := by
  unfold blockInv at h
  split at h
  · exact h
  · exact h.1
  · exact absurd ‹_› hphase

/-- POS of a held frame does not wrap: `24 n + 3` fits its 16 bits (R6, R16, R47). -/
theorem pos_add_one_toNat {b : Block} (h : frameHeld b = true) : (b.pos + 1).toNat = b.pos.toNat + 1 := by
  obtain ⟨⟨-, h2⟩, -, hpos⟩ := (frameHeld_iff b).1 h
  rw [BitVec.toNat_add]
  exact Nat.mod_eq_of_lt (by change _ + 1 < 65536; omega)

/-- A frame held is still held one byte further, until its last byte. -/
theorem frameHeld_pos_add_one {b : Block} (h : frameHeld b = true) (hmore : b.pos.toNat + 1 ≠ 24 * b.snapN + 3) :
    frameHeld { b with pos := b.pos + 1 } = true := by
  obtain ⟨hn, hlen, hpos⟩ := (frameHeld_iff b).1 h
  have hnext : (b.pos + 1).toNat < 24 * b.snapN + 3 := by
    rw [pos_add_one_toNat h]
    omega
  exact (frameHeld_iff _).2 ⟨hn, hlen, hnext⟩

/-- After the last byte the block is IDLE; before it, it goes on holding the frame (R71). -/
theorem advance_keeps_blockInv {s : State} (hinv : blockInv s.block) (hbusy : s.block.phase = .busy)
    (hheld : frameHeld s.block = true) : blockInv (advance s).block := by
  have hcode : s.block.fcode = .none := fcode_eq_none hinv (by simp [hbusy])
  by_cases hlast : s.block.pos.toNat + 1 = 24 * s.block.snapN + 3
  · exact blockInv_of_idle (advance_last hlast).1 ((advance_fcode s).trans hcode)
  · rw [advance_more hlast]
    exact blockInv_of_busy hbusy hcode (frameHeld_pos_add_one hheld hlast)

theorem loadFrame_keeps_blockInv {s : State} {colors : List Color} (hcode : s.block.fcode = .none)
    (h1 : 1 ≤ colors.length) (h2 : colors.length ≤ 2730) : blockInv (loadFrame s colors).block := by
  rw [loadFrame_block]
  exact ⟨hcode, h1, h2, Nat.succ_pos _, List.length_map ..⟩

theorem exec_keeps_blockInv {s t : State} {i : Instr} (hinv : blockInv s.block) (h : exec i s = .next t) :
    blockInv t.block := by
  obtain rfl | ⟨colors, rfl⟩ | ⟨-, rfl⟩ | hb := exec_block_eq_or h
  · obtain ⟨-, ⟨-, rfl⟩ | ⟨v, hbusy, hheld, -, rfl⟩⟩ := exec_emitByte_next h
    · exact hinv
    · exact advance_keeps_blockInv hinv hbusy hheld
  · obtain ⟨-, ⟨-, rfl⟩ | ⟨-, -, rfl⟩ | ⟨-, -, rfl⟩ | ⟨hidle, h1, h2, rfl⟩⟩ := exec_submitFrame_next h
    · exact hinv
    · exact .inl rfl
    · exact .inr rfl
    · exact loadFrame_keeps_blockInv (fcode_eq_none hinv (by simp [hidle])) h1 h2
  · exact blockInv_of_idle (resetBlock_phase s) (resetBlock_fcode s)
  · rwa [hb]

/-- Settles O28: every operation keeps R21, and neither the script nor the consumer's reading writes the block. -/
theorem blockInvariantsKept : Obligations.BlockInvariantsKept := by
  refine ⟨blockInv_reset, step_keeps_of_exec (P := fun s => blockInv s.block) ?_ ?_ ?_⟩
  · exact fun s r hinv => hinv
  · exact fun s n hinv => hinv
  · exact fun i s s' hinv h => exec_keeps_blockInv hinv h

/-! ### Reset and STATUS -/

theorem byteOut_of_not_busy (p : Params) {b : Block} (h : b.phase ≠ .busy) : byteOut p b = none := by
  simp [byteOut, byteOutValid, h]

/-- Settles O9: the fields of the reset state, read off; no byte is offered, since it is not BUSY. -/
theorem stateAfterReset : Obligations.StateAfterReset := by
  have hphase : State.reset.block.phase ≠ .busy := Phase.noConfusion
  exact ⟨rfl, rfl, rfl, rfl, rfl, byteOut_of_not_busy _ hphase, rfl⟩

/-- R14, R17, R18: the two fields of STATUS, and zeros above them. -/
theorem statusByte_fields (b : Block) :
    (statusByte b).extractLsb' 0 2 = phaseCode b.phase ∧ (statusByte b).extractLsb' 2 2 = fcodeCode b.fcode ∧
      (statusByte b).extractLsb' 4 4 = 0 := by
  rw [statusByte]
  cases b.phase <;> cases b.fcode <;> decide

/-- Settles O13: under R21 the phase and the code leave four values. -/
theorem statusFieldsAndValues : Obligations.StatusFieldsAndValues := by
  intro b
  obtain ⟨hp, hf, hz⟩ := statusByte_fields b
  refine ⟨hp, hf, hz, fun hinv => ?_⟩
  unfold blockInv at hinv
  split at hinv
  next hidle => exact .inl ⟨hidle, by rw [statusByte, hidle, hinv]; rfl⟩
  next hbusy => exact .inr (.inl ⟨hbusy, by rw [statusByte, hbusy, hinv.1]; rfl⟩)
  next hfault =>
    obtain hcode | hcode := hinv
    · exact .inr (.inr (.inl ⟨hfault, hcode, by rw [statusByte, hfault, hcode]; rfl⟩))
    · exact .inr (.inr (.inr ⟨hfault, hcode, by rw [statusByte, hfault, hcode]; rfl⟩))

/-! ### The bytes sent and the bytes owed (R34, R71, R77) -/

theorem owed_of_busy {s : State} (h : s.block.phase = .busy) :
    owed s = (wireFrame s.cfg s.block.snapN s.block.snap).drop s.block.pos.toNat := if_pos h

/-- An accepted frame is owed whole (R70). -/
theorem owed_loadFrame (s : State) (colors : List Color) :
    owed (loadFrame s colors) = wireFrame s.cfg colors.length (colors.map toRgb) := rfl

/-- An advance leaves owed what lies behind POS: nothing, after the last byte. -/
theorem owed_advance {s : State} (hbusy : s.block.phase = .busy) (hheld : frameHeld s.block = true) :
    owed (advance s) = (wireFrame s.cfg s.block.snapN s.block.snap).drop (s.block.pos.toNat + 1) := by
  by_cases hlast : s.block.pos.toNat + 1 = 24 * s.block.snapN + 3
  · obtain ⟨-, hlen, -⟩ := (frameHeld_iff _).1 hheld
    have hend : (wireFrame s.cfg s.block.snapN s.block.snap).length ≤ s.block.pos.toNat + 1 := by
      rw [wireFrame_length, hlen, hlast]
    rw [owed_of_not_busy (by simp [(advance_last hlast).1]), List.drop_eq_nil_of_le hend]
  · rw [advance_more hlast, ← pos_add_one_toNat hheld]
    exact owed_of_busy hbusy

/-- EMIT_BYTE moves the first byte owed, if there is one, to the consumer's inbox, and does nothing else to the
consumer (R71, R75). -/
theorem exec_emitByte_moves_owed {s t : State} (h : exec .emitByte s = .next t) :
    t.consumer = { s.consumer with inbox := s.consumer.inbox ++ (owed s).take 1 } ∧ owed t = (owed s).drop 1 := by
  obtain ⟨-, ⟨hphase, rfl⟩ | ⟨v, hbusy, hheld, hv, rfl⟩⟩ := exec_emitByte_next h
  · simp [owed_of_not_busy hphase]
  · obtain ⟨hlt, hget⟩ := List.getElem?_eq_some_iff.1 hv
    rw [owed_of_busy hbusy, List.drop_eq_getElem_cons hlt, hget,
      owed_advance (s := withConsumer s (accept s.consumer v)) hbusy hheld]
    exact ⟨advance_consumer _, rfl⟩

/-- R77: `k` EMIT_BYTE steps deliver the first `k` bytes owed, and no more than there are. -/
theorem emitTimes_stream {k : Nat} {s t : State} (h : emitTimes k s = .next t) :
    stream t = stream s ++ (owed s).take k := by
  induction k generalizing s with
  | zero =>
    cases h
    simp
  | succ k ih =>
    rw [emitTimes, repeatOp] at h
    split at h
    · rename_i s₁ h₁
      obtain ⟨hconsumer, howed⟩ := exec_emitByte_moves_owed h₁
      have hstream : stream s₁ = stream s ++ (owed s).take 1 := by simp [stream, hconsumer]
      rw [ih h, hstream, howed, List.append_assoc, ← List.take_add, Nat.add_comm]
    · cases h
    · cases h

/-- SUBMIT_FRAME hands the consumer nothing, and in IDLE what the block owes after it is a function of the
configuration and the channels (R65, R70). -/
theorem exec_submitFrame_idle {s t : State} {colors : List Color} (hidle : s.block.phase = .idle)
    (h : exec (.submitFrame colors) s = .next t) :
    t.consumer = s.consumer ∧
      owed t = if encodable colors.length then wireFrame s.cfg colors.length (colors.map toRgb) else [] := by
  obtain ⟨-, ⟨hnot, -⟩ | ⟨-, hlen, rfl⟩ | ⟨-, hlen, rfl⟩ | ⟨-, h1, h2, rfl⟩⟩ := exec_submitFrame_next h
  · exact absurd hidle hnot
  · rw [if_neg (by rw [encodable_iff]; omega)]
    exact ⟨rfl, rfl⟩
  · rw [if_neg (by rw [encodable_iff]; omega)]
    exact ⟨rfl, rfl⟩
  · rw [if_pos ((encodable_iff _).2 ⟨h1, h2⟩)]
    exact ⟨rfl, owed_loadFrame s colors⟩

/-- Settles O34: the bytes are the first `k` of what is owed after the submission, which is the same in both runs. -/
theorem nothingKeptBetweenFrames : Obligations.NothingKeptBetweenFrames := by
  intro s s' t t' colors colors' k hidle hidle' hcfg hcolors hsub hsub' u u' hu hu'
  obtain ⟨hconsumer, howed⟩ := exec_submitFrame_idle hidle hsub
  obtain ⟨hconsumer', howed'⟩ := exec_submitFrame_idle hidle' hsub'
  have hlen : colors.length = colors'.length := by simpa using congrArg List.length hcolors
  have hsame : owed t = owed t' := by rw [howed, howed', hcfg, hcolors, hlen]
  refine ⟨(owed t).take k, ?_, ?_⟩
  · rw [emitTimes_stream hu, stream, hconsumer, stream]
  · rw [emitTimes_stream hu', stream, hconsumer', stream, hsame]

/-! ### The wire language (R45, R48, R50) -/

/-- Whole tokens up to a command boundary, with whole frames after them, are admitted. -/
theorem wireAdmits_append {p : Params} {st : WireStage} {bs more : List Byte}
    (h : wireAdmits p st bs = true) (hmore : wireAdmits p .boundary more = true) :
    wireAdmits p st (bs ++ more) = true := by
  fun_induction wireAdmits p st bs with
  | case1 => exact hmore
  | case2 op lo hi rest ih =>
    obtain ⟨hheader, hrest⟩ := (Bool.and_eq_true _ _).mp h
    exact (Bool.and_eq_true _ _).mpr ⟨hheader, ih hrest⟩
  | case3 left b rest ih =>
    obtain ⟨hsymbol, hrest⟩ := (Bool.and_eq_true _ _).mp h
    exact (Bool.and_eq_true _ _).mpr ⟨hsymbol, ih hrest⟩
  | case4 => cases h

/-- A payload of symbols, as long as announced, brings the consumer to a command boundary (R45, R48). -/
theorem wireAdmits_payload {p : Params} {bs : List Byte} (hne : bs ≠ [])
    (hsym : ∀ b ∈ bs, b = p.symZero ∨ b = p.symOne) : wireAdmits p (.payload bs.length) bs = true := by
  induction bs with
  | nil => exact absurd rfl hne
  | cons b rest ih =>
    obtain ⟨hb, hrest⟩ := List.forall_mem_cons.1 hsym
    refine (Bool.and_eq_true _ _).mpr ⟨decide_eq_true hb, ?_⟩
    cases rest with
    | nil => rfl
    | cons c cs => exact ih (List.cons_ne_nil c cs) hrest

theorem sym_cases (p : Params) (bit : Bool) : sym p bit = p.symZero ∨ sym p bit = p.symOne := by
  cases bit
  · exact .inl rfl
  · exact .inr rfl

theorem mem_payloadSymbols {p : Params} {cs : List Rgb} {b : Byte} (h : b ∈ payloadSymbols p cs) :
    b = p.symZero ∨ b = p.symOne := by
  obtain ⟨c, -, hb⟩ := List.mem_flatMap.1 h
  rw [ledSymbols_eq_map] at hb
  obtain ⟨bit, -, rfl⟩ := List.mem_map.1 hb
  exact sym_cases p bit

/-- Reading a length field back from its two bytes (R43, R48). -/
theorem lengthOf_bytes (w : Half) : lengthOf (lowByte w) (highByte w) = w := by
  apply BitVec.eq_of_toNat_eq
  simp only [lengthOf, lowByte, highByte, BitVec.toNat_ofNat, BitVec.extractLsb'_toNat]
  omega

/-- `24 n - 1` fits the length field (R42, R47). -/
theorem lengthField_toNat {n : Nat} (h2 : n ≤ 2730) : (lengthField n).toNat = 24 * n - 1 := by
  rw [lengthField, BitVec.toNat_ofNat]
  omega

theorem lengthLegal_lengthField {n : Nat} (h1 : 1 ≤ n) (h2 : n ≤ 2730) : lengthLegal (lengthField n) = true := by
  simp only [lengthLegal, lengthField_toNat h2, Bool.and_eq_true, decide_eq_true_eq]
  omega

/-- R50: a wire frame the block sends is admitted whole. -/
theorem wireAdmits_wireFrame (p : Params) {cs : List Rgb} (h1 : 1 ≤ cs.length) (h2 : cs.length ≤ 2730) :
    wireAdmits p .boundary (wireFrame p cs.length cs) = true := by
  have hlen : (lengthField cs.length).toNat + 1 = (payloadSymbols p cs).length := by
    rw [lengthField_toNat h2, payloadSymbols_length]
    omega
  have hne : payloadSymbols p cs ≠ [] := by
    rw [← List.length_pos_iff, payloadSymbols_length]
    omega
  simp only [wireFrame, headerBytes, List.cons_append, List.nil_append, wireAdmits, lengthOf_bytes, hlen,
    lengthLegal_lengthField h1 h2, wireAdmits_payload hne (fun _ => mem_payloadSymbols), decide_true, Bool.and_true]

/-! ### Tokens read off the stream (R48) -/

/-- A header token is a command with a length field of R50. -/
theorem decodeHeaderToken_ok {p : Params} {bs rest : List Byte} {i : Instr}
    (h : decodeHeaderToken p bs = .ok (i, rest)) :
    ∃ lo hi, bs = p.opcode :: lo :: hi :: rest ∧ lengthLegal (lengthOf lo hi) = true ∧
      i = .cmdClockOut (lengthOf lo hi) := by
  unfold decodeHeaderToken at h
  split at h
  · cases h
  split at h
  · rename_i hop
    split at h
    · split at h <;> cases h
      exact ⟨_, _, by rw [hop], ‹_›, rfl⟩
    · cases h
  · cases h

/-- A symbol token is one byte. -/
theorem decodeSymbolToken_ok {p : Params} {bs rest : List Byte} {i : Instr}
    (h : decodeSymbolToken p bs = .ok (i, rest)) :
    ∃ b, bs = b :: rest ∧ ((b = p.symZero ∧ i = .symZero) ∨ (b = p.symOne ∧ i = .symOne)) := by
  unfold decodeSymbolToken at h
  split at h
  · cases h
  split at h
  · cases h
    exact ⟨_, rfl, .inl ⟨‹_›, rfl⟩⟩
  split at h <;> cases h
  exact ⟨_, rfl, .inr ⟨‹_›, rfl⟩⟩

/-- A token decoded is the front of the bytes, and the language admits the bytes exactly where it admits the rest from
the position after the token, whatever follows. -/
theorem decode_token {p : Params} {st : WireStage} {bs rest : List Byte} {i : Instr}
    (h : decode p .wire (atPayload st) bs = .ok (i, rest)) :
    (∃ token, bs = token ++ rest) ∧
      ∀ more, wireAdmits p st (bs ++ more) = wireAdmits p (stageAfter st i) (rest ++ more) := by
  cases st with
  | boundary =>
    obtain ⟨lo, hi, rfl, hlegal, rfl⟩ := decodeHeaderToken_ok h
    exact ⟨⟨[p.opcode, lo, hi], rfl⟩, fun more => by simp [wireAdmits, stageAfter, hlegal]⟩
  | payload left =>
    obtain ⟨b, rfl, hb⟩ := decodeSymbolToken_ok h
    have hsymbol : b = p.symZero ∨ b = p.symOne := hb.imp And.left And.left
    refine ⟨⟨[b], rfl⟩, fun more => ?_⟩
    cases left with
    | zero => simp [wireAdmits, stageAfter]
    | succ left => simp [wireAdmits, stageAfter, hsymbol]

/-- What is decoded belongs to the port it was read from. -/
theorem decode_port {p : Params} {port : Port} {inPayload : Bool} {bs rest : List Byte} {i : Instr}
    (h : decode p port inPayload bs = .ok (i, rest)) : i.port = port := by
  cases port with
  | wire =>
    cases inPayload with
    | false =>
      obtain ⟨lo, hi, -, -, rfl⟩ := decodeHeaderToken_ok h
      rfl
    | true => obtain ⟨b, -, ⟨-, rfl⟩ | ⟨-, rfl⟩⟩ := decodeSymbolToken_ok h <;> rfl
  | byteOut | rst => cases h; rfl
  | frameIn | ledFn | channelByteFn | payloadFn | frameFn =>
    unfold decode at h
    dsimp only at h
    split at h <;> cases h
    rfl
  | status =>
    unfold decode at h
    dsimp only at h
    split at h
    · cases h
    · split at h <;> cases h
      rfl
  | headerFn =>
    unfold decode at h
    dsimp only at h
    split at h
    · split at h <;> cases h
      rfl
    · cases h

/-! ### The whole machine's invariant (R21, R34, R35, R102, R107) -/

theorem frameInFlight_iff (b : Block) : frameInFlight b = true ↔ b.phase = .busy ∧ b.pos ≠ 0 := by
  simp [frameInFlight]

/-- Where no frame is partly sent, what the consumer has not read yet are whole frames by itself. -/
theorem linkInv_inbox {s : State} (hlink : linkInv s) (hcut : s.consumer.cut = none)
    (hflight : ¬ frameInFlight s.block = true) : wireAdmits s.cfg s.consumer.stage s.consumer.inbox = true := by
  obtain ⟨hall, hinbox⟩ := hlink hcut
  by_cases hbusy : s.block.phase = .busy
  · exact hinbox hbusy (by simpa [frameInFlight_iff, hbusy] using hflight)
  · rwa [owed_of_not_busy hbusy, List.append_nil] at hall

/-- With nothing owed, `linkInv` is about the inbox alone. -/
theorem linkInv_of_not_busy {s : State} (hphase : s.block.phase ≠ .busy)
    (hinbox : s.consumer.cut = none → wireAdmits s.cfg s.consumer.stage s.consumer.inbox = true) : linkInv s := by
  intro hcut
  rw [owed_of_not_busy hphase, List.append_nil]
  exact ⟨hinbox hcut, fun hbusy => absurd hbusy hphase⟩

/-- After EMIT_BYTE a BUSY block has sent a byte of its frame. -/
theorem advance_pos_ne_zero {s : State} (hheld : frameHeld s.block = true)
    (hbusy : (advance s).block.phase = .busy) : (advance s).block.pos ≠ 0 := by
  by_cases hlast : s.block.pos.toNat + 1 = 24 * s.block.snapN + 3
  · simp [(advance_last hlast).1] at hbusy
  · rw [advance_more hlast]
    intro hzero
    have hnat : (s.block.pos + 1).toNat = 0 := congrArg BitVec.toNat hzero
    rw [pos_add_one_toNat hheld] at hnat
    cases hnat

/-- A byte sent moves from the owed bytes to the inbox, and what the two make together stays. -/
theorem emitByte_keeps_linkInv {s t : State} (hlink : linkInv s) (h : exec .emitByte s = .next t) : linkInv t := by
  obtain ⟨hconsumer, howed⟩ := exec_emitByte_moves_owed h
  have hcfg := exec_cfg h
  obtain ⟨-, ⟨-, rfl⟩ | ⟨v, hbusy, hheld, -, rfl⟩⟩ := exec_emitByte_next h
  · exact hlink
  intro hcut
  constructor
  · rw [howed, hcfg, hconsumer, List.append_assoc, List.take_append_drop]
    exact (hlink (by simpa using hcut)).1
  · exact fun hbusy' hzero => absurd hzero (advance_pos_ne_zero hheld hbusy')

/-- A frame is accepted in IDLE, where the inbox by itself is whole frames, and adds one more. -/
theorem submitFrame_keeps_linkInv {s t : State} {colors : List Color} (hlink : linkInv s)
    (h : exec (.submitFrame colors) s = .next t) : linkInv t := by
  have hinbox (hidle : s.block.phase = .idle) (hcut : s.consumer.cut = none) :
      wireAdmits s.cfg s.consumer.stage s.consumer.inbox = true :=
    linkInv_inbox hlink hcut (by simp [frameInFlight_iff, hidle])
  obtain ⟨-, ⟨-, rfl⟩ | ⟨hidle, -, rfl⟩ | ⟨hidle, -, rfl⟩ | ⟨hidle, h1, h2, rfl⟩⟩ := exec_submitFrame_next h
  · exact hlink
  · exact linkInv_of_not_busy Phase.noConfusion (hinbox hidle)
  · exact linkInv_of_not_busy Phase.noConfusion (hinbox hidle)
  · intro hcut
    have hframe : wireAdmits s.cfg .boundary (wireFrame s.cfg colors.length (colors.map toRgb)) = true := by
      simpa using wireAdmits_wireFrame s.cfg (cs := colors.map toRgb) (by simpa using h1) (by simpa using h2)
    rw [owed_loadFrame]
    exact ⟨wireAdmits_append (hinbox hidle hcut) hframe, fun _ _ => hinbox hidle hcut⟩

/-- A RESET drops what is owed; where that cuts a frame, the mark ends the claim (R102). -/
theorem resetBlock_keeps_linkInv {s : State} (hlink : linkInv s) : linkInv (resetBlock s) := by
  refine linkInv_of_not_busy (by simp) fun hcut => ?_
  rw [resetBlock_consumer] at hcut ⊢
  split at hcut
  next => exact absurd hcut (markCut_cut_ne_none _)
  next hflight =>
    rw [if_neg hflight, resetBlock_cfg]
    exact linkInv_inbox hlink hcut hflight

theorem accept_keeps_cutInv {c : Consumer} (h : cutInv c) (b : Byte) : cutInv (accept c b) := by
  unfold cutInv at *
  rw [accept_cut]
  split at h
  · trivial
  · simp only [acceptedCount, accept_decoded, accept_inbox, List.length_append] at *
    omega

theorem markCut_keeps_cutInv {c : Consumer} (h : cutInv c) : cutInv (markCut c) := by
  unfold markCut
  split
  · exact h
  · exact ⟨Nat.le_add_right _ _, le_refl _⟩

/-- Bytes taken from before the truncation do not reach past it. -/
theorem takeBytes_keeps_cutInv {c : Consumer} (h : cutInv c) {n : Nat} (hn : n ≤ (admitted c).length) :
    cutInv (takeBytes c n) := by
  have hcount := takeBytes_acceptedCount c n
  have hdecoded : (takeBytes c n).decoded.length ≤ c.decoded.length + n := by
    simp [takeBytes]
  have hcut : (takeBytes c n).cut = c.cut := rfl
  unfold cutInv at *
  rw [hcut, hcount]
  split at h
  next => trivial
  next k hk =>
    have hadm : (admitted c).length ≤ k - c.decoded.length := by
      simp [admitted, hk]
    exact ⟨by omega, h.2⟩

/-- No operation but the consumer's own reading breaks the tie between its position and the bytes. -/
theorem exec_keeps_inv {s t : State} {i : Instr} (hinv : Inv s) (hport : i.port ≠ .wire) (h : exec i s = .next t) :
    Inv t := by
  obtain ⟨hwf, hblock, hlink, hcut⟩ := hinv
  refine ⟨by rwa [exec_cfg h], exec_keeps_blockInv hblock h, ?_⟩
  obtain rfl | ⟨colors, rfl⟩ | ⟨-, rfl⟩ | hwire | ⟨-, rfl⟩ | ⟨r, rfl⟩ := exec_next_cases h
  · refine ⟨emitByte_keeps_linkInv hlink h, ?_⟩
    obtain ⟨-, ⟨-, rfl⟩ | ⟨v, -, -, -, rfl⟩⟩ := exec_emitByte_next h
    · exact hcut
    · rw [advance_consumer]
      exact accept_keeps_cutInv hcut v
  · refine ⟨submitFrame_keeps_linkInv hlink h, ?_⟩
    obtain ⟨-, ⟨-, rfl⟩ | ⟨-, -, rfl⟩ | ⟨-, -, rfl⟩ | ⟨-, -, -, rfl⟩⟩ := exec_submitFrame_next h <;> exact hcut
  · refine ⟨resetBlock_keeps_linkInv hlink, ?_⟩
    rw [resetBlock_consumer]
    split
    · exact markCut_keeps_cutInv hcut
    · exact hcut
  · exact absurd hwire hport
  · exact ⟨hlink, hcut⟩
  · exact ⟨hlink, hcut⟩

/-- The consumer's reading of a token moves its position and its bytes together, and stops at a truncation. -/
theorem token_keeps_inv {s t : State} {i : Instr} {rest : List Byte} (hinv : Inv s)
    (hdecode : decode s.cfg .wire (atPayload s.consumer.stage) (admitted s.consumer) = .ok (i, rest))
    (h : exec i (withConsumer s (takeBytes s.consumer ((admitted s.consumer).length - rest.length))) = .next t) :
    Inv t := by
  obtain ⟨hwf, hblock, hlink, hcutInv⟩ := hinv
  obtain ⟨⟨token, htoken⟩, hadmits⟩ := decode_token hdecode
  obtain ⟨bits, rfl⟩ := exec_token_next (decode_port hdecode) h
  refine ⟨hwf, hblock, fun hcut => ?_, takeBytes_keeps_cutInv hcutInv (Nat.sub_le _ _)⟩
  replace hcut : s.consumer.cut = none := hcut
  have hinbox : s.consumer.inbox = token ++ rest := by rw [← htoken, admitted, hcut]
  have hrest : (takeBytes s.consumer ((admitted s.consumer).length - rest.length)).inbox = rest := by
    simp [takeBytes, htoken, hinbox]
  have hstays (more : List Byte) : wireAdmits s.cfg s.consumer.stage (s.consumer.inbox ++ more) =
      wireAdmits s.cfg (stageAfter s.consumer.stage i) (rest ++ more) := by
    rw [hinbox, ← htoken, hadmits]
  obtain ⟨hall, hbefore⟩ := hlink hcut
  simp only [withConsumer_consumer, withConsumer_cfg, withConsumer_block, hrest]
  refine ⟨(hstays (owed s)).symm.trans hall, fun hbusy hzero => ?_⟩
  have hnone := hstays []
  rw [List.append_nil, List.append_nil] at hnone
  exact hnone.symm.trans (hbefore hbusy hzero)

/-- An operation read from a transaction's own bytes is none of the consumer's; the consumer's are read from its
stream. -/
theorem runTransaction_keeps_inv {x : Transaction} {s t : State} (hinv : Inv s) (h : runTransaction x s = .next t) :
    Inv t := by
  obtain rfl | ⟨i, s₁, hfetch, hexec⟩ := runTransaction_next h
  · exact hinv
  obtain ⟨hport, hdecode, rfl⟩ | ⟨-, rest, hdecode, rfl⟩ := fetch_ready hfetch
  · exact exec_keeps_inv hinv (by rwa [decode_port hdecode]) hexec
  · exact token_keeps_inv hinv hdecode hexec

/-- Settles O30: taking a slot off the script, every transaction and every submission keep the invariant. -/
theorem invariantKept : Obligations.InvariantKept := by
  refine step_keeps ?_ ?_ ?_
  · exact fun s r hinv => hinv
  · exact fun x s t hinv h => runTransaction_keeps_inv hinv h
  · exact fun colors s t hinv h => exec_keeps_inv hinv Port.noConfusion h

end Sys2Proof.Machine

/-! ### The bytes sent and owed over any operations but RESET (R36) -/

namespace Sys2Proof.Machine

/-- R64: a frame that ENCODE_FRAME encodes is in its domain, and its bytes are the wire frame. -/
theorem frameEncoding_ok {p : Params} {f : Frame} {w : List Byte} (h : frameEncoding p f = .ok w) :
    encodable f.colors.length = true ∧ w = wireFrame p f.colors.length (f.colors.map toRgb) := by
  unfold frameEncoding at h
  split at h
  · cases h
  next hnone =>
    cases h
    exact ⟨(encodable_iff _).2 ((frameFault_eq_none_iff _).1 hnone), rfl⟩

/-- What every operation of a list keeps, the list keeps. -/
theorem execAll_keeps {P : State → Prop} {ops : List Instr}
    (hexec : ∀ i ∈ ops, ∀ s s', P s → exec i s = .next s' → P s') {s t : State} (hs : P s)
    (h : execAll ops s = .next t) : P t := by
  induction ops generalizing s with
  | nil =>
    cases h
    exact hs
  | cons i is ih =>
    rw [execAll] at h
    split at h
    next s₁ h₁ =>
      exact ih (fun j hj => hexec j (List.mem_cons_of_mem i hj)) (hexec i List.mem_cons_self s s₁ hs h₁) h
    next => cases h
    next => cases h

/-- No operation but RESET takes back a byte sent or owed: EMIT_BYTE only hands it over, and a submission accepted in
IDLE, where nothing is owed, adds its frame behind (R70, R71, R73). -/
theorem exec_extends_stream_owed {s t : State} {i : Instr} (hreset : i ≠ .reset) (h : exec i s = .next t) :
    stream s ++ owed s <+: stream t ++ owed t := by
  obtain rfl | ⟨colors, rfl⟩ | ⟨hi, -⟩ | hwire | ⟨-, rfl⟩ | ⟨r, rfl⟩ := exec_next_cases h
  · obtain ⟨hconsumer, howed⟩ := exec_emitByte_moves_owed h
    have hsame : stream t ++ owed t = stream s ++ owed s := by
      simp only [stream, hconsumer, howed, List.append_assoc, List.take_append_drop]
    rw [hsame]
  · by_cases hidle : s.block.phase = .idle
    · obtain ⟨hconsumer, -⟩ := exec_submitFrame_idle hidle h
      rw [owed_of_not_busy (by simp [hidle]), List.append_nil, stream, ← hconsumer]
      exact List.prefix_append _ _
    · obtain ⟨-, ⟨-, rfl⟩ | ⟨hi, -⟩ | ⟨hi, -⟩ | ⟨hi, -⟩⟩ := exec_submitFrame_next h
      · exact List.prefix_rfl
      all_goals exact absurd hi hidle
  · exact absurd hi hreset
  · obtain ⟨bits, rfl⟩ := exec_token_next hwire h
    exact List.prefix_rfl
  · exact List.prefix_rfl
  · exact List.prefix_rfl

/-- Settles O33: after the submission the frame is owed whole, what is sent and owed only grows, and in IDLE nothing
is owed. -/
theorem idleMeansFrameOut : Obligations.IdleMeansFrameOut := by
  intro s t u f w ops hidle hw hsub hreset hops hidle'
  obtain ⟨hn, rfl⟩ := frameEncoding_ok hw
  obtain ⟨hconsumer, howed⟩ := exec_submitFrame_idle hidle hsub
  rw [if_pos hn] at howed
  have hgrows : stream t ++ owed t <+: stream u ++ owed u :=
    execAll_keeps (P := fun v => stream t ++ owed t <+: stream v ++ owed v)
      (fun i hi v v' hv he => hv.trans (exec_extends_stream_owed (ne_of_mem_of_not_mem hi hreset) he))
      List.prefix_rfl hops
  obtain ⟨more, hmore⟩ := hgrows
  have hsent : stream t = stream s := by rw [stream, hconsumer, stream]
  have hnone : owed u = [] := owed_of_not_busy (by simp [hidle'])
  rw [hnone, List.append_nil, howed, hsent] at hmore
  exact ⟨more, hmore.symm⟩

end Sys2Proof.Machine

/-! ### Encoding: the decoder against the encoder, at every port (R18, R39, R51, R55, R56, logs 2 to 4) -/

namespace Sys2Proof

/-! ### Numbers and truth values as bytes -/

theorem natOfBytes_natBytes (k v : Nat) : natOfBytes (natBytes k v) = v % 256 ^ k := by
  induction k generalizing v with
  | zero => simp [natBytes, natOfBytes, Nat.mod_one]
  | succ k ih =>
    rw [natBytes, natOfBytes, ih, Nat.pow_succ', Nat.mod_mul]
    simp

theorem natBytes_natOfBytes {bs : List Byte} {k : Nat} (hlen : bs.length = k) : natBytes k (natOfBytes bs) = bs := by
  subst hlen
  induction bs with
  | nil => rfl
  | cons b bs ih =>
    have hb := b.isLt
    have hlow : BitVec.ofNat 8 (natOfBytes (b :: bs)) = b := by
      apply BitVec.eq_of_toNat_eq
      rw [natOfBytes, BitVec.toNat_ofNat]
      omega
    have hhigh : natOfBytes (b :: bs) / 256 = natOfBytes bs := by
      rw [natOfBytes]
      omega
    rw [List.length_cons, natBytes, hlow, hhigh, ih]

theorem natOfBytes_lt {bs : List Byte} {k : Nat} (hlen : bs.length = k) : natOfBytes bs < 256 ^ k := by
  subst hlen
  induction bs with
  | nil => exact Nat.one_pos
  | cons b bs ih =>
    have hb := b.isLt
    rw [natOfBytes, List.length_cons, Nat.pow_succ]
    omega

theorem lowByte_lengthOf (lo hi : Byte) : lowByte (lengthOf lo hi) = lo := by
  have hlo := lo.isLt
  have hhi := hi.isLt
  apply BitVec.eq_of_toNat_eq
  rw [lowByte, lengthOf, BitVec.extractLsb'_toNat, BitVec.toNat_ofNat, Nat.shiftRight_zero]
  omega

theorem highByte_lengthOf (lo hi : Byte) : highByte (lengthOf lo hi) = hi := by
  have hlo := lo.isLt
  have hhi := hi.isLt
  apply BitVec.eq_of_toNat_eq
  rw [highByte, lengthOf, BitVec.extractLsb'_toNat, BitVec.toNat_ofNat, Nat.shiftRight_eq_div_pow]
  omega

/-- The byte of a truth value (log 3), as `encode` writes it. -/
theorem decodeBool_byte (flag : Bool) : decodeBool (if flag then 0x01 else 0x00) = .ok flag := by
  cases flag <;> rfl

theorem decodeBool_ok {b : Byte} {flag : Bool} (h : decodeBool b = .ok flag) :
    b = if flag then 0x01 else 0x00 := by
  unfold decodeBool at h
  split at h
  · cases h
    assumption
  split at h <;> cases h
  assumption

/-! ### Colour records (R51) -/

theorem decodeColors_records (cs : List Color) (rest : List Byte) :
    decodeColors cs.length (cs.flatMap colorBytes ++ rest) = .ok (cs, rest) := by
  induction cs with
  | nil => rfl
  | cons c cs ih => simp [colorBytes, decodeColors, ih]

theorem decodeColors_ok {n : Nat} {bs rest : List Byte} {cs : List Color}
    (h : decodeColors n bs = .ok (cs, rest)) : cs.length = n ∧ cs.flatMap colorBytes ++ rest = bs := by
  fun_induction decodeColors n bs generalizing cs with
  | case1 bs =>
    cases h
    exact ⟨rfl, rfl⟩
  | case2 n r g b a bs cs' rest' hrec ih =>
    cases h
    obtain ⟨hlen, hbytes⟩ := ih hrec
    exact ⟨congrArg (· + 1) hlen, by simp [colorBytes, hbytes]⟩
  | case3 => cases h
  | case4 => cases h

/-- `led_count` and its records are read back, with any bytes after them (R51, log 2). -/
theorem decodeCounted_countedBytes {cs : List Color} (hfits : countFits cs.length = true) (rest : List Byte) :
    decodeCounted (countedBytes cs ++ rest) = .ok (cs, rest) := by
  have hcount : natOfBytes (natBytes 2 cs.length) = cs.length := by
    rw [natOfBytes_natBytes]
    exact Nat.mod_eq_of_lt (of_decide_eq_true hfits)
  calc decodeCounted (countedBytes cs ++ rest)
      = decodeColors (natOfBytes (natBytes 2 cs.length)) (cs.flatMap colorBytes ++ rest) := by
        rw [countedBytes, List.append_assoc]
        rfl
    _ = .ok (cs, rest) := by rw [hcount, decodeColors_records]

theorem decodeCounted_ok {bs rest : List Byte} {cs : List Color} (h : decodeCounted bs = .ok (cs, rest)) :
    countFits cs.length = true ∧ countedBytes cs ++ rest = bs := by
  unfold decodeCounted at h
  split at h
  next lo hi bs =>
    obtain ⟨hlen, hbytes⟩ := decodeColors_ok h
    have hlt : natOfBytes [lo, hi] < 65536 := natOfBytes_lt (k := 2) rfl
    have hcount : natBytes 2 cs.length = [lo, hi] := hlen ▸ natBytes_natOfBytes rfl
    refine ⟨decide_eq_true (hlen ▸ hlt), ?_⟩
    rw [countedBytes, hcount, List.append_assoc, hbytes]
    rfl
  next => cases h

theorem decodeFrameOperand_encode {f : Frame} (hfits : countFits f.colors.length = true)
    (hhold : f.holdDurationMs < 4294967296) (p : Params) (rest : List Byte) :
    decodeFrameOperand (encode p (.encodeFrame f) ++ rest) = .ok (f, rest) := by
  have hms : natOfBytes (natBytes 4 f.holdDurationMs) = f.holdDurationMs := by
    rw [natOfBytes_natBytes]
    exact Nat.mod_eq_of_lt hhold
  unfold decodeFrameOperand
  rw [encode, List.append_assoc, List.append_assoc, decodeCounted_countedBytes hfits]
  simp only [natBytes, List.cons_append, List.nil_append, decodeBool_byte] at hms ⊢
  rw [hms]

theorem decodeFrameOperand_ok {bs rest : List Byte} {f : Frame} (h : decodeFrameOperand bs = .ok (f, rest))
    (p : Params) : (Instr.encodeFrame f).wf = true ∧ encode p (.encodeFrame f) ++ rest = bs := by
  unfold decodeFrameOperand at h
  split at h
  next => cases h
  next cs h0 h1 h2 h3 u rest' hcounted =>
    split at h
    next flag hflag =>
      cases h
      obtain ⟨hfits, rfl⟩ := decodeCounted_ok hcounted
      have hlt : natOfBytes [h0, h1, h2, h3] < 4294967296 := natOfBytes_lt (k := 4) rfl
      have hhold : natBytes 4 (natOfBytes [h0, h1, h2, h3]) = [h0, h1, h2, h3] := natBytes_natOfBytes rfl
      refine ⟨(Bool.and_eq_true _ _).mpr ⟨hfits, decide_eq_true hlt⟩, ?_⟩
      rw [encode, hhold, ← decodeBool_ok hflag]
      simp
    next => cases h
  next => cases h

/-! ### Round trips at every port -/

/-- Decoding what the encoder writes gives the operation back, whatever bytes follow. -/
theorem decode_encode {p : Params} {i : Instr} (hp : p.wf = true) (hi : i.wf = true) (rest : List Byte) :
    decode p i.port i.inPayload (encode p i ++ rest) = .ok (i, rest) := by
  cases i with
  | cmdClockOut len =>
    have hlegal : lengthLegal len = true := hi
    simp [decode, encode, Instr.port, Instr.inPayload, decodeHeaderToken, Machine.lengthOf_bytes, hlegal]
  | symZero => simp [decode, encode, Instr.port, Instr.inPayload, decodeSymbolToken]
  | symOne =>
    have hne : p.symOne ≠ p.symZero := ((params_wf_iff p).1 hp).symm
    simp [decode, encode, Instr.port, Instr.inPayload, decodeSymbolToken, hne]
  | submitFrame colors | encodePayload colors =>
    simp only [decode, encode, Instr.port, decodeCounted_countedBytes hi]
  | emitByte | readStatus | reset | encodeChannelByte | encodeLed => rfl
  | encodeHeader n =>
    have hdomain : encodable n = true := hi
    have hrange : 1 ≤ n ∧ n ≤ 2730 := (Machine.encodable_iff n).1 hdomain
    have hn : natOfBytes (natBytes 2 n) = n := by
      rw [natOfBytes_natBytes]
      omega
    simp only [natBytes] at hn
    simp [decode, encode, Instr.port, natBytes, hn, hdomain]
  | encodeFrame f =>
    obtain ⟨hfits, hhold⟩ := (Bool.and_eq_true _ _).mp hi
    simp only [decode, Instr.port, decodeFrameOperand_encode hfits (of_decide_eq_true hhold)]

/-- What is decoded is well-formed, stands where it was read, and, but for a status word (log 4), encodes to the bytes
it was read from. -/
theorem decode_ok {p : Params} {port : Port} {inPayload : Bool} {bs rest : List Byte} {i : Instr}
    (h : decode p port inPayload bs = .ok (i, rest)) :
    i.wf = true ∧ (port = .wire → i.inPayload = inPayload) ∧ (port ≠ .status → encode p i ++ rest = bs) := by
  unfold decode at h
  cases port with
  | wire =>
    cases inPayload with
    | false =>
      obtain ⟨lo, hi, rfl, hlegal, rfl⟩ := Machine.decodeHeaderToken_ok h
      exact ⟨hlegal, fun _ => rfl, fun _ => by rw [encode, lowByte_lengthOf, highByte_lengthOf]; rfl⟩
    | true =>
      obtain ⟨b, rfl, ⟨rfl, rfl⟩ | ⟨rfl, rfl⟩⟩ := Machine.decodeSymbolToken_ok h
      · exact ⟨rfl, fun _ => rfl, fun _ => rfl⟩
      · exact ⟨rfl, fun _ => rfl, fun _ => rfl⟩
  | byteOut | rst =>
    cases h
    exact ⟨rfl, nofun, fun _ => rfl⟩
  | frameIn | payloadFn =>
    dsimp only at h
    split at h <;> cases h
    next hcounted => exact ⟨(decodeCounted_ok hcounted).1, nofun, fun _ => (decodeCounted_ok hcounted).2⟩
  | frameFn =>
    dsimp only at h
    split at h <;> cases h
    next hoperand =>
      obtain ⟨hwf, hbytes⟩ := decodeFrameOperand_ok hoperand p
      exact ⟨hwf, nofun, fun _ => hbytes⟩
  | channelByteFn | ledFn =>
    dsimp only at h
    split at h <;> cases h
    exact ⟨rfl, nofun, fun _ => rfl⟩
  | status =>
    dsimp only at h
    split at h
    · cases h
    · split at h <;> cases h
      exact ⟨rfl, nofun, fun hne => absurd rfl hne⟩
  | headerFn =>
    dsimp only at h
    split at h
    next lo hi bs =>
      split at h <;> cases h
      next hdomain =>
        have hbytes : natBytes 2 (natOfBytes [lo, hi]) = [lo, hi] := natBytes_natOfBytes rfl
        exact ⟨hdomain, nofun, fun _ => by rw [encode, hbytes]; rfl⟩
    next => cases h

/-- R17, R18, U4: the fields of a status word as numbers. -/
theorem statusWord_iff (b : Byte) :
    (b.extractLsb' 4 4 = 0 ∧ b.extractLsb' 2 2 ≠ 3 ∧ b.extractLsb' 0 2 ≠ 3) ↔
      b.toNat / 16 = 0 ∧ b.toNat / 4 % 4 ≠ 3 ∧ b.toNat % 4 ≠ 3 := by
  have hb := b.isLt
  have h0 : (0 : BitVec 4).toNat = 0 := rfl
  have h3 : (3 : BitVec 2).toNat = 3 := rfl
  simp only [ne_eq, ← BitVec.toNat_inj, BitVec.extractLsb'_toNat, Nat.shiftRight_eq_div_pow, h0, h3]
  omega

end Sys2Proof

namespace Sys2Proof.Machine

/-- Settles O52, by the constructors of the operation. -/
theorem decodeEncodeAgree : Obligations.DecodeEncodeAgree :=
  fun _ _ rest hp hi => decode_encode hp hi rest

/-- Settles O53: the bytes of an operation are the ones it was read from; a status word is judged by its fields. -/
theorem encodeDecodeAgree : Obligations.EncodeDecodeAgree := by
  intro p inPayload
  refine ⟨fun port bs rest i hport h => ?_, fun b rest => ?_, rfl⟩
  · obtain ⟨-, -, hbytes⟩ := decode_ok h
    exact hbytes hport
  · exact if_congr (statusWord_iff b) rfl rfl

/-- Settles O54, by the inversion of the decoder, port by port. -/
theorem decodedIsWellFormed : Obligations.DecodedIsWellFormed := by
  intro p port inPayload bs rest i h
  obtain ⟨hwf, hinPayload, -⟩ := decode_ok h
  exact ⟨hwf, decode_port h, hinPayload⟩

/-- Settles O55: every word but the status request is what `encode` writes for its operation. -/
theorem sampleWordsDecode : Obligations.SampleWordsDecode := by
  intro p hne
  have hread : ∀ i : Instr, i.wf = true → decode p i.port i.inPayload (encode p i) = .ok (i, []) := fun i hi => by
    simpa using decode_encode ((params_wf_iff p).2 hne) hi []
  exact ⟨hread (.cmdClockOut 1439) rfl, hread .symZero rfl, hread .symOne rfl,
    hread (.submitFrame [{ r := 0xFF, g := 0x00, b := 0x00 }]) rfl, rfl, hread .reset rfl, hread .emitByte rfl⟩

/-! ### The step on one transaction (R52, R68) -/

theorem runAll_singleton (t : Transaction) (s : State) : runAll [t] s = runTransaction t s := by
  rw [runAll]
  split <;> rename_i h
  · rw [h, runAll]
  · exact h.symm
  · exact h.symm

/-- A transaction offered alone competes with none (R92). -/
theorem arbitrate_singleton (t : Transaction) : arbitrate [t] = [t] := by
  cases h : t.port <;> simp [arbitrate, h]

theorem step_of_single {s : State} {t : Transaction} {rest : List Slot} (h : s.host.script = [t] :: rest) :
    step s = runTransaction t (withScript s rest) := by
  rw [step, takeStep, h]
  dsimp only
  rw [arbitrate_singleton, runAll_singleton]

theorem fetch_wire (s : State) : fetch { port := .wire, bytes := [] } s = fetchToken s := rfl

theorem fetch_of_port {t : Transaction} (h : t.port ≠ .wire) (s : State) : fetch t s = fetchTransaction t s :=
  if_neg h

/-- A consumer's turn with a token at the front of what it may read takes the token's bytes and executes it (R48). -/
theorem runTransaction_token {s : State} {i : Instr} {after : List Byte}
    (h : decode s.cfg .wire (atPayload s.consumer.stage) (admitted s.consumer) = .ok (i, after)) :
    runTransaction { port := .wire, bytes := [] } s =
      exec i (withConsumer s (takeBytes s.consumer ((admitted s.consumer).length - after.length))) := by
  have hfetch : fetch { port := .wire, bytes := [] } s =
      .ready i (withConsumer s (takeBytes s.consumer ((admitted s.consumer).length - after.length))) := by
    rw [fetch_wire, fetchToken, h]
  rw [runTransaction, hfetch]

/-- Settles O1: the slot has one transaction, and its bytes are one operation. -/
theorem stepRunsTransaction : Obligations.StepRunsTransaction := by
  intro s t rest i hscript hport hdecode
  have hfetch : fetch t (withScript s rest) = .ready i (withScript s rest) := by
    rw [fetch_of_port hport, fetchTransaction, withScript_cfg, hdecode]
  rw [step_of_single hscript, runTransaction, hfetch]

/-- Settles O2: the slot is the consumer's turn alone, and a token is there to take. -/
theorem stepRunsWireToken : Obligations.StepRunsWireToken := by
  intro s rest i after hscript hdecode
  rw [step_of_single hscript, runTransaction_token (s := withScript s rest) hdecode, withScript_consumer]

/-- Settles O3: the three ways in which no token comes off the stream. -/
theorem wireTokenWaitsOrStops : Obligations.WireTokenWaitsOrStops := by
  intro s rest why hscript hdecode
  have hfetch : fetch { port := .wire, bytes := [] } (withScript s rest) =
      if why = .short then
        if (admitted s.consumer).length < s.consumer.inbox.length then .refused .afterTruncation else .waiting
      else .refused (.outsideWireLanguage why) := by
    rw [fetch_wire, fetchToken, withScript_cfg, withScript_consumer, hdecode]
    cases why <;> rfl
  rw [step_of_single hscript, runTransaction, hfetch]
  split_ifs <;> rfl

/-- Settles O4: nothing is fetched from such bytes but a refusal. -/
theorem undecodableTransactionRefused : Obligations.UndecodableTransactionRefused := by
  intro s t rest hscript hport
  rw [step_of_single hscript, runTransaction, fetch_of_port hport, fetchTransaction, withScript_cfg]
  constructor
  · intro why hdecode
    rw [hdecode]
  · intro i b after hdecode
    rw [hdecode]

/-! ### The wire format (R39 to R48) -/

/-- R39 to R43: the length field of a frame of `n` LEDs, low byte first. -/
theorem lengthField_bytes_toNat {n : Nat} (h2 : n ≤ 2730) :
    (lowByte (lengthField n)).toNat = (24 * n - 1) % 256 ∧ (highByte (lengthField n)).toNat = (24 * n - 1) / 256 := by
  simp only [lowByte, highByte, BitVec.extractLsb'_toNat, lengthField_toNat h2, Nat.shiftRight_eq_div_pow]
  omega

/-- Settles O37: the two length bytes are those of `24 n - 1`, and the payload's length is `24 n`. -/
theorem wireFrameLayout : Obligations.WireFrameLayout := by
  intro p cs h1 h2
  obtain ⟨hlo, hhi⟩ := lengthField_bytes_toNat h2
  refine ⟨lowByte (lengthField cs.length), highByte (lengthField cs.length), payloadSymbols p cs, rfl,
    payloadSymbols_length p cs, hlo, hhi, ?_, ?_, wireFrame_length p _ cs, ?_⟩
  · omega
  · omega
  · rw [hlo, hhi, wireFrame_length]
    omega

/-- In a concatenation of blocks of one length, position `k` is position `k % m` of block `k / m`. -/
theorem getElem?_flatMap_of_blocks {α β : Type} {f : α → List β} {m : Nat} (hpos : 0 < m)
    (hm : ∀ x, (f x).length = m) {xs : List α} {k : Nat} {x : α} (hx : xs[k / m]? = some x) : (xs.flatMap f)[k]? = (f x)[k % m]? := by
  induction xs generalizing k with
  | nil => cases hx
  | cons y ys ih =>
    rw [List.flatMap_cons]
    by_cases hk : k < m
    · rw [Nat.div_eq_of_lt hk] at hx
      cases hx
      rw [List.getElem?_append_left (by rwa [hm]), Nat.mod_eq_of_lt hk]
    · have hge : m ≤ k := Nat.le_of_not_lt hk
      rw [Nat.div_eq_sub_div hpos hge] at hx
      rw [List.getElem?_append_right (by rwa [hm]), hm, Nat.mod_eq_sub_mod hge]
      exact ih hx

theorem channelByteSymbols_getElem? (p : Params) (b : Byte) {i : Nat} (hi : i < 8) :
    (channelByteSymbols p b)[i]? = some (sym p (b.getLsbD (7 - i))) := by
  interval_cases i <;> rfl

/-- R60, R61: the three channels of an LED, in order. -/
theorem ledSymbols_eq_flatMap (p : Params) (c : Rgb) :
    ledSymbols p c = (List.finRange 3).flatMap (fun ch => channelByteSymbols p (channel c ch)) := rfl

/-- Settles O38: position `k` lies in LED `k / 24`, there in channel `k % 24 / 8`, there at symbol `k % 8`. -/
theorem payloadClosedForm : Obligations.PayloadClosedForm := by
  intro p n cs k c hc
  have hchannel : (List.finRange 3)[k % 24 / 8]? = some (Fin.ofNat 3 (k % 24 / 8)) := by
    have hlt : k % 24 / 8 < 3 := by omega
    interval_cases k % 24 / 8 <;> rfl
  calc (wireFrame p n cs)[3 + k]?
      = (payloadSymbols p cs)[k]? := by
        rw [wireFrame, List.getElem?_append_right (by simp)]
        simp
    _ = (ledSymbols p c)[k % 24]? := getElem?_flatMap_of_blocks (by decide) (ledSymbols_length p) hc
    _ = (channelByteSymbols p (channel c (Fin.ofNat 3 (k % 24 / 8))))[k % 24 % 8]? := by
        rw [ledSymbols_eq_flatMap]
        exact getElem?_flatMap_of_blocks (by decide) (fun _ => channelByteSymbols_length p _) hchannel
    _ = some (sym p ((channel c (Fin.ofNat 3 (k % 24 / 8))).getLsbD (7 - k % 8))) := by
        rw [channelByteSymbols_getElem? p _ (Nat.mod_lt _ (by decide)), Nat.mod_mod_of_dvd k (by decide)]

/-- Settles O39: every payload byte is the symbol of some bit. -/
theorem payloadOnlySymbols : Obligations.PayloadOnlySymbols :=
  fun _ _ _ hb => mem_payloadSymbols hb

/-- Settles O40: a legal header, and as many symbols as it announces. -/
theorem wireFrameInLanguage : Obligations.WireFrameInLanguage :=
  fun p _ h1 h2 => wireAdmits_wireFrame p h1 h2

/-! ### Wire tokens and ENCODE_HEADER at and outside their domains (R48 to R50, R55, R63) -/

/-- Settles O47: there the count is not encodable (log 18). -/
theorem headerOutsideDomainRefused : Obligations.HeaderOutsideDomainRefused := by
  intro s n hwf hn
  have hdomain : ¬ encodable n = true := by
    rw [encodable_iff]
    omega
  rw [exec, execEncodeHeader, withConfig_of_wf hwf, if_neg hdomain]

theorem lengthLegal_iff (len : Half) :
    lengthLegal len = true ↔ 23 ≤ len.toNat ∧ len.toNat ≤ 65519 ∧ (len.toNat + 1) % 24 = 0 := by
  simp only [lengthLegal, Bool.and_eq_true, decide_eq_true_eq, and_assoc]

/-- At a command boundary a header token opens its payload or is outside the language (R48, R50). -/
theorem exec_cmdClockOut_boundary {s : State} (hwf : s.cfg.wf = true) (hstage : s.consumer.stage = .boundary)
    (len : Half) : exec (.cmdClockOut len) s =
      if lengthLegal len then .next (openPayload s len) else .refused (.outsideWireLanguage .badLength) := by
  rw [exec, execCmdClockOut, withConfig_of_wf hwf, hstage]

/-- Settles O49: such a length is legal. -/
theorem headerTokenOpensPayload : Obligations.HeaderTokenOpensPayload := by
  intro s len hwf hstage hlow hhigh hwhole
  rw [exec_cmdClockOut_boundary hwf hstage, if_pos ((lengthLegal_iff len).2 ⟨hlow, hhigh, hwhole⟩)]
  rfl

theorem takeSymbol_boundary {s : State} (hstage : s.consumer.stage = .boundary) (bit : Bool) :
    takeSymbol s bit = .refused .tokenOutOfPlace := by
  rw [takeSymbol, hstage]

theorem takeSymbol_payload {s : State} {left : Nat} (hstage : s.consumer.stage = .payload (left + 1)) (bit : Bool) :
    takeSymbol s bit = .next (withConsumer s { s.consumer with
      stage := if left = 0 then .boundary else .payload left, bits := s.consumer.bits ++ [bit] }) := by
  rw [takeSymbol, hstage]

/-- Settles O51: symbols need an open payload, a header a boundary and a legal length. -/
theorem misplacedTokensRefused : Obligations.MisplacedTokensRefused := by
  intro s hwf
  refine ⟨fun hstage => ⟨?_, ?_⟩, fun left len hstage => ?_, fun len hstage hlen => ?_⟩
  · rw [exec, execSymZero, withConfig_of_wf hwf, takeSymbol_boundary hstage]
  · rw [exec, execSymOne, withConfig_of_wf hwf, takeSymbol_boundary hstage]
  · rw [exec, execCmdClockOut, withConfig_of_wf hwf, hstage]
  · have hillegal : ¬ lengthLegal len = true := by
      rw [lengthLegal_iff]
      omega
    rw [exec_cmdClockOut_boundary hwf hstage, if_neg hillegal]

/-! ### A whole frame through the consumer's decoder (R28 to R30, R45, R48) -/

/-- The `k` bytes that EMIT_BYTE delivers lie in the inbox, and nothing else of the consumer changes (R71). -/
theorem emitTimes_delivers {k : Nat} {s t : State} (h : emitTimes k s = .next t) :
    t.cfg = s.cfg ∧ t.consumer = { s.consumer with inbox := s.consumer.inbox ++ (owed s).take k } := by
  induction k generalizing s with
  | zero =>
    cases h
    simp
  | succ k ih =>
    rw [emitTimes, repeatOp] at h
    split at h
    next s₁ h₁ =>
      obtain ⟨hconsumer, howed⟩ := exec_emitByte_moves_owed h₁
      obtain ⟨hcfg, hrest⟩ := ih h
      refine ⟨hcfg.trans (exec_cfg h₁), ?_⟩
      rw [hrest, hconsumer, howed, List.append_assoc, ← List.take_add, Nat.add_comm 1 k]
    next => cases h
    next => cases h

/-- The consumer's turn reads back a token that the encoder wrote at a position where it can stand, and executes it. -/
theorem receive_encoded {s : State} {i : Instr} {rest : List Byte} (hwf : s.cfg.wf = true)
    (hcut : s.consumer.cut = none) (hport : i.port = .wire) (hi : i.wf = true)
    (hplace : atPayload s.consumer.stage = i.inPayload) (hinbox : s.consumer.inbox = encode s.cfg i ++ rest) :
    runTransaction { port := .wire, bytes := [] } s = exec i (withConsumer s
      { s.consumer with inbox := rest, decoded := s.consumer.decoded ++ encode s.cfg i }) := by
  have hadmitted : admitted s.consumer = encode s.cfg i ++ rest := by rw [admitted, hcut, hinbox]
  have hdecode : decode s.cfg .wire (atPayload s.consumer.stage) (admitted s.consumer) = .ok (i, rest) := by
    rw [hadmitted, hplace, ← hport]
    exact decode_encode hwf hi rest
  rw [runTransaction_token hdecode, takeBytes, hadmitted, hinbox]
  simp

/-- The symbol token of a bit (R54 to R56). -/
def symbolToken (bit : Bool) : Instr := if bit then .symOne else .symZero

theorem encode_symbolToken (p : Params) (bit : Bool) : encode p (symbolToken bit) = [sym p bit] := by
  cases bit <;> rfl

theorem symbolToken_place (bit : Bool) :
    (symbolToken bit).port = .wire ∧ (symbolToken bit).wf = true ∧ (symbolToken bit).inPayload = true := by
  cases bit <;> exact ⟨rfl, rfl, rfl⟩

theorem exec_symbolToken {s : State} (hwf : s.cfg.wf = true) (bit : Bool) :
    exec (symbolToken bit) s = takeSymbol s bit := by
  cases bit <;> exact withConfig_of_wf hwf

theorem receiveTimes_succ {k : Nat} {s s₁ : State}
    (h : runTransaction { port := .wire, bytes := [] } s = .next s₁) :
    receiveTimes (k + 1) s = receiveTimes k s₁ := by
  rw [receiveTimes, repeatOp, h, receiveTimes]

/-- A consumer's turn with a symbol in front, in a payload (R45). -/
theorem receive_symbol {s : State} {bit : Bool} {left : Nat} {rest : List Byte} (hwf : s.cfg.wf = true)
    (hcut : s.consumer.cut = none) (hstage : s.consumer.stage = .payload (left + 1))
    (hinbox : s.consumer.inbox = sym s.cfg bit :: rest) :
    runTransaction { port := .wire, bytes := [] } s = .next (withConsumer s
      { s.consumer with
        inbox := rest
        decoded := s.consumer.decoded ++ encode s.cfg (symbolToken bit)
        stage := if left = 0 then .boundary else .payload left
        bits := s.consumer.bits ++ [bit] }) := by
  obtain ⟨hport, htoken, hpayload⟩ := symbolToken_place bit
  have hfront : s.consumer.inbox = encode s.cfg (symbolToken bit) ++ rest := by rw [hinbox, encode_symbolToken]; rfl
  have hplace : atPayload s.consumer.stage = (symbolToken bit).inPayload := by rw [hstage, hpayload]; rfl
  rw [receive_encoded hwf hcut hport htoken hplace hfront, exec_symbolToken, takeSymbol_payload (left := left)]
  · rfl
  · exact hstage
  · exact hwf

/-- A consumer's turn with a header in front, at a command boundary (R48). -/
theorem receive_header {s : State} {len : Half} {rest : List Byte} (hwf : s.cfg.wf = true)
    (hcut : s.consumer.cut = none) (hstage : s.consumer.stage = .boundary) (hlegal : lengthLegal len = true)
    (hinbox : s.consumer.inbox = encode s.cfg (.cmdClockOut len) ++ rest) :
    runTransaction { port := .wire, bytes := [] } s = .next (openPayload (withConsumer s
      { s.consumer with
        inbox := rest
        decoded := s.consumer.decoded ++ encode s.cfg (.cmdClockOut len) }) len) := by
  have hplace : atPayload s.consumer.stage = (Instr.cmdClockOut len).inPayload := by rw [hstage]; rfl
  rw [receive_encoded (i := .cmdClockOut len) hwf hcut rfl hlegal hplace hinbox, exec_cmdClockOut_boundary,
    if_pos hlegal]
  · exact hwf
  · exact hstage

/-- The consumer in a payload, with exactly the payload's symbols undecoded, recovers all their bits (R45). -/
theorem receive_symbols {bits : List Bool} (hne : bits ≠ []) {s : State} (hwf : s.cfg.wf = true)
    (hcut : s.consumer.cut = none) (hstage : s.consumer.stage = .payload bits.length)
    (hinbox : s.consumer.inbox = bits.map (sym s.cfg)) :
    ∃ v, receiveTimes bits.length s = .next v ∧ v.consumer.bits = s.consumer.bits ++ bits ∧
      v.consumer.stage = .boundary ∧ v.consumer.inbox = [] := by
  induction bits generalizing s with
  | nil => exact absurd rfl hne
  | cons bit more ih =>
    rw [List.length_cons, receiveTimes_succ (receive_symbol hwf hcut hstage hinbox)]
    cases more with
    | nil => exact ⟨_, rfl, rfl, rfl, rfl⟩
    | cons bit' more =>
      rw [List.append_cons s.consumer.bits bit (bit' :: more)]
      refine ih (List.cons_ne_nil bit' more) ?_ ?_ ?_ ?_
      · exact hwf
      · exact hcut
      · rfl
      · rfl

theorem payloadSymbols_eq_map (p : Params) (cs : List Rgb) : payloadSymbols p cs = (frameBits cs).map (sym p) := by
  rw [payloadSymbols, frameBits, List.map_flatMap]
  rfl

/-- A whole frame, and nothing else, in the inbox at a command boundary is recovered bit by bit. -/
theorem receive_wireFrame {s : State} {cs : List Rgb} (hwf : s.cfg.wf = true) (hcut : s.consumer.cut = none)
    (hstage : s.consumer.stage = .boundary) (h1 : 1 ≤ cs.length) (h2 : cs.length ≤ 2730)
    (hinbox : s.consumer.inbox = wireFrame s.cfg cs.length cs) :
    ∃ v, receiveTimes (24 * cs.length + 1) s = .next v ∧ v.consumer.bits = frameBits cs ∧
      v.consumer.stage = .boundary ∧ v.consumer.inbox = [] := by
  have hlegal := lengthLegal_lengthField h1 h2
  have hlen : (frameBits cs).length = 24 * cs.length := by
    rw [← payloadSymbols_length s.cfg cs, payloadSymbols_eq_map, List.length_map]
  have hopened : (lengthField cs.length).toNat + 1 = (frameBits cs).length := by
    rw [lengthField_toNat h2, hlen]
    omega
  have hne : frameBits cs ≠ [] := by
    rw [← List.length_pos_iff, hlen]
    omega
  rw [receiveTimes_succ (receive_header hwf hcut hstage hlegal hinbox), ← hlen]
  exact receive_symbols hne hwf hcut (congrArg WireStage.payload hopened) (payloadSymbols_eq_map s.cfg cs)

/-- Settles O36: the frame accepted is owed whole, EMIT_BYTE moves it into the inbox, and there it is recovered. -/
theorem consumerRecoversFrame : Obligations.ConsumerRecoversFrame := by
  intro s t u colors hwf hidle hcut hinbox hstage h1 h2 hsubmit hemit
  obtain ⟨hconsumer, howed⟩ := exec_submitFrame_idle hidle hsubmit
  obtain ⟨hcfg, hdelivered⟩ := emitTimes_delivers hemit
  rw [exec_cfg hsubmit] at hcfg
  rw [if_pos ((encodable_iff _).2 ⟨h1, h2⟩)] at howed
  have hlen : (colors.map toRgb).length = colors.length := List.length_map _
  have hwhole : (owed t).take (24 * colors.length + 3) = owed t := by
    rw [howed]
    exact List.take_of_length_le (by rw [wireFrame_length, hlen])
  rw [hwhole, howed, hconsumer, hinbox, List.nil_append] at hdelivered
  rw [← hlen] at h1 h2 hdelivered ⊢
  exact receive_wireFrame (hcfg ▸ hwf) (by rw [hdelivered, hcut]) (by rw [hdelivered, hstage]) h1 h2
    (by rw [hdelivered, hcfg])

end Sys2Proof.Machine

/-! ### The bit encoder: symbol tokens, and the symbols of a channel byte (R54 to R58) -/

namespace Sys2Proof.Machine

/-- Settles O22: each of the three tokens stands on the wire, and there only position and bits move. -/
theorem wireTokensFrame : Obligations.WireTokensFrame := by
  intro s t i hi h
  have hwire : i.port = .wire := by
    obtain ⟨len, rfl⟩ | rfl | rfl := hi <;> rfl
  obtain ⟨bits, rfl⟩ := exec_token_next hwire h
  rfl

/-- Settles O50: under a well-formed configuration a token takes its symbol. -/
theorem symbolTokensAddBits : Obligations.SymbolTokensAddBits := by
  intro s left hwf hstage i bit hi
  have htoken : i = symbolToken bit := by
    obtain ⟨rfl, rfl⟩ | ⟨rfl, rfl⟩ := hi <;> rfl
  rw [htoken, exec_symbolToken hwf, takeSymbol_payload hstage]
  rfl

/-- Settles O42: the result is the byte's symbols, read off by position. -/
theorem channelByteResult : Obligations.ChannelByteResult := by
  intro s b hwf
  exact ⟨channelByteSymbols s.cfg b, withConfig_of_wf hwf, channelByteSymbols_length s.cfg b,
    fun i hi => channelByteSymbols_getElem? s.cfg b hi⟩

/-- R5: two symbols that differ tell the bits apart. -/
theorem sym_injective {p : Params} (h : p.symZero ≠ p.symOne) : Function.Injective (sym p) := by
  intro x y hxy
  cases x <;> cases y
  · rfl
  · exact absurd hxy h
  · exact absurd hxy.symm h
  · rfl

theorem sym_eq_symOne_iff {p : Params} (h : p.symZero ≠ p.symOne) (bit : Bool) :
    sym p bit = p.symOne ↔ bit = true :=
  (sym_injective h).eq_iff (b := true)

theorem bitsMsbFirst_eq_map (b : Byte) : bitsMsbFirst b = (List.range 8).reverse.map b.toNat.testBit := rfl

/-- Reading bits `k - 1` down to `0` of a number, after what stands above them, gives the number. -/
theorem foldl_testBit_reverse_range (n k : Nat) :
    (List.range k).reverse.foldl (fun acc j => 2 * acc + (n.testBit j).toNat) (n / 2 ^ k) = n := by
  induction k with
  | zero => exact Nat.div_one n
  | succ k ih =>
    have hbit : 2 * (n / 2 ^ (k + 1)) + (n.testBit k).toNat = n / 2 ^ k := by
      rw [Nat.toNat_testBit, Nat.pow_succ, ← Nat.div_div_eq_div_mul]
      exact Nat.div_add_mod _ 2
    rw [List.range_succ, List.reverse_append, List.reverse_singleton, List.singleton_append, List.foldl_cons, hbit]
    exact ih

/-- R58: the symbols, read back most significant bit first, are the byte. -/
theorem symbolsToByte_channelByteSymbols {p : Params} (h : p.symZero ≠ p.symOne) (b : Byte) :
    symbolsToByte p (channelByteSymbols p b) = b := by
  have hsymbol : ∀ bit, (if sym p bit = p.symOne then 1 else 0) = bit.toNat := by
    intro bit
    cases bit <;> simp [sym_eq_symOne_iff h]
  have hread := foldl_testBit_reverse_range b.toNat 8
  rw [Nat.div_eq_of_lt b.isLt] at hread
  rw [symbolsToByte, channelByteSymbols_eq_map, bitsMsbFirst_eq_map, List.foldl_map, List.foldl_map]
  simp only [hsymbol]
  rw [hread, BitVec.ofNat_toNat, BitVec.setWidth_eq]

/-- The symbol of a value stands as often as the value among the bits. -/
theorem channelByteSymbols_count {p : Params} (h : p.symZero ≠ p.symOne) (b : Byte) (bit : Bool) :
    (channelByteSymbols p b).count (sym p bit) = (bitsMsbFirst b).count bit := by
  rw [channelByteSymbols_eq_map, List.count_map_of_injective _ _ (sym_injective h)]

/-- Settles O43: `sym` is injective, so the symbols carry the bits, by position and by number. -/
theorem channelByteInvertible : Obligations.ChannelByteInvertible := by
  intro p b h
  have hone := channelByteSymbols_count h b true
  have hzero := channelByteSymbols_count h b false
  have htotal : (bitsMsbFirst b).count true + (bitsMsbFirst b).count false = 8 := List.count_add_count_not _ true
  refine ⟨symbolsToByte_channelByteSymbols h b, fun i hi => ?_, hone, ?_⟩
  · rw [channelByteSymbols_getElem? p b hi, Option.some_inj, sym_eq_symOne_iff h]
  · exact hzero.trans (by omega)

end Sys2Proof.Machine

/-! ### The frame encoder: its frame, and the results on a LED, a payload, a header and a frame (R60 to R67) -/

namespace Sys2Proof.Machine

/-- Settles O21: of all that an operation can have done, an internal function can have written its result alone. -/
theorem encoderFunctionsFrame : Obligations.EncoderFunctionsFrame := by
  intro s t i hi h
  obtain ⟨r, rfl⟩ : ∃ r, t = withResult s r := by
    obtain ⟨b, rfl⟩ | ⟨c, rfl⟩ | ⟨cs, rfl⟩ | ⟨n, rfl⟩ | ⟨f, rfl⟩ := hi <;>
      simpa [Instr.port] using exec_next_cases h
  rfl

/-- R62: LED `j` has the 24 bytes at `24 j` of the payload. -/
theorem take_drop_payloadSymbols (p : Params) {cs : List Rgb} {j : Nat} {c : Rgb} (hc : cs[j]? = some c) :
    ((payloadSymbols p cs).drop (24 * j)).take 24 = ledSymbols p c := by
  induction cs generalizing j with
  | nil => cases hc
  | cons x cs ih =>
    rw [payloadSymbols_cons]
    cases j with
    | zero =>
      cases hc
      exact List.take_left' (ledSymbols_length p c)
    | succ j =>
      rw [Nat.mul_succ, Nat.add_comm, ← List.drop_drop, List.drop_left' (ledSymbols_length p x)]
      exact ih hc

/-- Settles O45: the payload's length is `24 n`, and LED by LED its 24 bytes are the LED's symbols. -/
theorem payloadResult : Obligations.PayloadResult := by
  intro s colors hwf
  refine ⟨payloadSymbols s.cfg (colors.map toRgb), withConfig_of_wf hwf, ?_, fun j c hc => ?_⟩
  · rw [payloadSymbols_length, List.length_map]
  · have hled : (colors.map toRgb)[j]? = some (toRgb c) := by
      rw [List.getElem?_map, hc, Option.map_some]
    rw [take_drop_payloadSymbols s.cfg hled]
    rfl

/-- Settles O46: such a count is encodable, and the length field of `24 n - 1` fits its two bytes. -/
theorem headerResult : Obligations.HeaderResult := by
  intro s n hwf h1 h2
  obtain ⟨hlo, hhi⟩ := lengthField_bytes_toNat h2
  refine ⟨lowByte (lengthField n), highByte (lengthField n), ?_, ?_⟩
  · rw [exec, execEncodeHeader, withConfig_of_wf hwf, if_pos ((encodable_iff n).2 ⟨h1, h2⟩)]
    rfl
  · rw [hlo, hhi]
    omega

/-- R65: ENCODE_FRAME reads the colours of a frame alone. -/
theorem frameEncoding_congr (p : Params) {f g : Frame} (h : g.colors = f.colors) :
    frameEncoding p g = frameEncoding p f := by
  rw [frameEncoding, frameEncoding, h]

/-- R64: on a frame in its domain ENCODE_FRAME has the wire frame as its result. -/
theorem exec_encodeFrame_of_no_fault {s : State} {f : Frame} (hwf : s.cfg.wf = true)
    (h : frameFault f.colors.length = none) :
    exec (.encodeFrame f) s =
      .next (withResult s (.bytes (wireFrame s.cfg f.colors.length (f.colors.map toRgb)))) := by
  rw [exec, execEncodeFrame, withConfig_of_wf hwf, frameEncoding, h]

/-- R64, R67: outside its domain ENCODE_FRAME has the fault as its result (log 11). -/
theorem exec_encodeFrame_of_fault {s : State} {f : Frame} {code : FCode} (hwf : s.cfg.wf = true)
    (h : frameFault f.colors.length = some code) :
    exec (.encodeFrame f) s = .next (withResult s (.raised code)) := by
  rw [exec, execEncodeFrame, withConfig_of_wf hwf, frameEncoding, h]

theorem frameFault_of_too_long {n : Nat} (h : 2730 < n) : frameFault n = some .frameTooLong := by
  obtain ⟨h0, -⟩ | ⟨-, hlong⟩ | ⟨-, hle, -⟩ := frameFault_cases n
  · omega
  · exact hlong
  · omega

/-- Settles O48: a clause for each answer of the checks on the length, and the colours are all that is read. -/
theorem frameResult : Obligations.FrameResult := by
  intro s f hwf
  refine ⟨fun h1 h2 => ⟨_, rfl, ?_, ?_⟩, fun h0 => ?_, fun hlong => ?_, fun g hg => ?_⟩
  · have hlength := wireFrame_length s.cfg f.colors.length (f.colors.map toRgb)
    rwa [List.length_map] at hlength
  · exact exec_encodeFrame_of_no_fault hwf ((frameFault_eq_none_iff _).2 ⟨h1, h2⟩)
  · have hempty : frameFault f.colors.length = some .emptyFrame := if_pos h0
    exact exec_encodeFrame_of_fault hwf hempty
  · exact exec_encodeFrame_of_fault hwf (frameFault_of_too_long hlong)
  · rw [exec, exec, execEncodeFrame, execEncodeFrame, frameEncoding_congr s.cfg hg]

/-- Settles O44: the symbols are those of the triple, which keeps nothing of alpha (R11). -/
theorem ledResult : Obligations.LedResult := by
  intro s c hwf
  exact ⟨withConfig_of_wf hwf, fun _ => rfl⟩

end Sys2Proof.Machine

/-! ### The stream port: SUBMIT_FRAME, EMIT_BYTE and READ_STATUS in every phase (R68 to R77, R92) -/

namespace Sys2Proof.Machine

/-! ### The order within a slot -/

/-- Transactions that are neither status reads nor RESETs compete with none of each other (log 22). -/
theorem arbitrate_of_others {slot : Slot} (h : ∀ t ∈ slot, t.port ≠ .status ∧ t.port ≠ .rst) :
    arbitrate slot = slot := by
  have hreads : slot.filter (fun t => decide (t.port = .status)) = [] := by
    simpa using fun t ht => (h t ht).1
  have hresets : slot.filter (fun t => decide (t.port = .rst)) = [] := by
    simpa using fun t ht => (h t ht).2
  have hothers : slot.filter (fun t => decide (t.port ≠ .status ∧ t.port ≠ .rst)) = slot := by
    simpa using h
  rw [arbitrate, hreads, hresets, hothers]
  rfl

theorem runAll_cons_of_next {t : Transaction} {s s' : State} (h : runTransaction t s = .next s') (ts : Slot) :
    runAll (t :: ts) s = runAll ts s' := by
  rw [runAll, h]

theorem runAll_cons_of_stop {t : Transaction} {s : State} (h : ∀ s', runTransaction t s ≠ .next s') (ts : Slot) :
    runAll (t :: ts) s = runTransaction t s := by
  rw [runAll]
  split
  next s' hs => exact absurd hs (h s')
  next hs => exact hs.symm
  next hs => exact hs.symm

/-- The second part of a slot starts where the first part ended. -/
theorem runAll_append_of_next {before : Slot} {s t : State} (h : runAll before s = .next t) (after : Slot) :
    runAll (before ++ after) s = runAll after t := by
  induction before generalizing s with
  | nil =>
    cases h
    rfl
  | cons x xs ih =>
    rw [List.cons_append]
    by_cases hx : ∃ s₁, runTransaction x s = .next s₁
    · obtain ⟨s₁, hx⟩ := hx
      rw [runAll_cons_of_next hx] at h ⊢
      exact ih h
    · rw [not_exists] at hx
      rw [runAll_cons_of_stop hx] at h
      exact absurd h (hx t)

/-- Where the first part of a slot stops, the second is not begun. -/
theorem runAll_append_of_stop {before : Slot} {s : State} (h : ∀ t, runAll before s ≠ .next t) (after : Slot) :
    runAll (before ++ after) s = runAll before s := by
  induction before generalizing s with
  | nil => exact absurd rfl (h s)
  | cons x xs ih =>
    rw [List.cons_append]
    by_cases hx : ∃ s₁, runTransaction x s = .next s₁
    · obtain ⟨s₁, hx⟩ := hx
      rw [runAll_cons_of_next hx] at h
      rw [runAll_cons_of_next hx, runAll_cons_of_next hx]
      exact ih h
    · rw [not_exists] at hx
      rw [runAll_cons_of_stop hx, runAll_cons_of_stop hx]

/-- Settles O8: the slot competes with nothing, and running it splits at any point. -/
theorem slotTakenInOrder : Obligations.SlotTakenInOrder := by
  refine ⟨fun s slot rest hscript hslot => ?_, fun _ => rfl, fun s t => runAll_singleton t s, fun s before after =>
    ⟨fun t h => runAll_append_of_next h after, fun h => runAll_append_of_stop h after⟩⟩
  rw [step, takeStep, hscript]
  dsimp only
  rw [arbitrate_of_others hslot]

/-- Settles O5: the two cases in which nothing happens are those in which the submission has to wait (log 9). -/
theorem nothingOfferedTakesPendingSubmission : Obligations.NothingOfferedTakesPendingSubmission := by
  intro s hscript
  have hstep : step s = idleStep s := by rw [step, takeStep, hscript]
  rw [hstep, idleStep]
  constructor
  · intro colors hoffer hidle
    have hready : frameInReady s.block = true := decide_eq_true hidle
    rw [hoffer]
    exact if_pos hready
  · intro hwait
    split
    next colors hoffer =>
      have hnot : s.block.phase ≠ .idle := hwait.resolve_left (by simp [hoffer])
      exact if_neg (by simpa [frameInReady] using hnot)
    next => rfl

/-! ### The operations, phase by phase -/

/-- R70: an encodable frame is accepted in IDLE. -/
theorem exec_submitFrame_accepted {s : State} {colors : List Color} (hwf : s.cfg.wf = true)
    (hidle : s.block.phase = .idle) (h1 : 1 ≤ colors.length) (h2 : colors.length ≤ 2730) :
    exec (.submitFrame colors) s = .next (loadFrame s colors) := by
  have hready : frameInReady s.block = true := decide_eq_true hidle
  rw [exec, execSubmitFrame, withConfig_of_wf hwf, if_pos hready, (frameFault_eq_none_iff _).2 ⟨h1, h2⟩]

/-- Settles O14: the frame is accepted, and the named update writes what the statement lists. -/
theorem submitLoadsSnapshot : Obligations.SubmitLoadsSnapshot := by
  intro s colors hwf hidle h1 h2
  rw [exec_submitFrame_accepted hwf hidle h1 h2]
  rfl

/-- Settles O16: outside IDLE the submission becomes the offer pending at the host, and that is all (log 9). -/
theorem submitHeldUnlessIdle : Obligations.SubmitHeldUnlessIdle := by
  intro s colors hwf hphase
  have hnotReady : ¬ frameInReady s.block = true := by simpa [frameInReady] using hphase
  rw [exec, execSubmitFrame, withConfig_of_wf hwf, if_neg hnotReady]
  rfl

/-- Settles O12: the byte returned is STATUS, and no other field is written. -/
theorem readStatusReturnsStatus : Obligations.ReadStatusReturnsStatus := by
  intro s
  exact ⟨withStatus s (statusByte s.block), rfl, rfl, rfl, rfl, rfl, rfl, rfl, rfl, rfl⟩

/-- Settles O18: outside BUSY no byte is valid at the port (log 10). -/
theorem emitHasNoStepUnlessBusy : Obligations.EmitHasNoStepUnlessBusy := by
  intro s hphase
  refine ⟨fun p => byteOut_of_not_busy p hphase, fun hwf => ?_⟩
  have hinvalid : ¬ byteOutValid s.block = true := by simpa [byteOutValid] using hphase
  rw [exec, execEmitByte, withConfig_of_wf hwf, if_neg hinvalid]

/-- R21: a BUSY block holds a whole frame. -/
theorem frameHeld_of_busy {b : Block} (hinv : blockInv b) (hbusy : b.phase = .busy) : frameHeld b = true := by
  rw [blockInv, hbusy] at hinv
  obtain ⟨-, h1, h2, hpos, hlen⟩ := hinv
  exact (frameHeld_iff b).2 ⟨⟨h1, h2⟩, hlen, hpos⟩

/-- R71: with a whole frame held, EMIT_BYTE cannot fail: it delivers `W[POS]` and advances. -/
theorem exec_emitByte_of_held {s : State} (hwf : s.cfg.wf = true) (hbusy : s.block.phase = .busy)
    (hheld : frameHeld s.block = true) :
    ∃ v, (wireFrame s.cfg s.block.snapN s.block.snap)[s.block.pos.toNat]? = some v ∧
      exec .emitByte s = .next (advance (withConsumer s (accept s.consumer v))) := by
  obtain ⟨v, hv⟩ := byteOut_of_held (p := s.cfg) hbusy hheld
  obtain ⟨-, -, hbyte⟩ := byteOut_some hv
  have hvalid : byteOutValid s.block = true := decide_eq_true hbusy
  refine ⟨v, hbyte, ?_⟩
  rw [exec, execEmitByte, withConfig_of_wf hwf, if_pos hvalid, hv]

/-- R44: the last byte of a wire frame encodes bit 0 of the last LED's blue channel. -/
theorem wireFrame_last (p : Params) {n : Nat} {cs : List Rgb} {c : Rgb} (hn : 1 ≤ n) (hc : cs[n - 1]? = some c) :
    (wireFrame p n cs)[24 * n + 2]? = some (sym p (c.b.getLsbD 0)) := by
  obtain ⟨m, rfl⟩ : ∃ m, n = m + 1 := ⟨n - 1, by omega⟩
  have hled : (24 * m + 23) / 24 = m := by omega
  have hch : (24 * m + 23) % 24 / 8 = 2 := by omega
  have hbit : 7 - (24 * m + 23) % 8 = 0 := by omega
  have hbyte := payloadClosedForm p (m + 1) cs (24 * m + 23) c (by rw [hled]; exact hc)
  rw [hch, hbit] at hbyte
  rw [show 24 * (m + 1) + 2 = 3 + (24 * m + 23) by omega]
  exact hbyte

/-- Settles O17: R21 holds a whole frame, so the byte is there; the advance is the last one or is not. -/
theorem emitDeliversNextByte : Obligations.EmitDeliversNextByte := by
  intro s hwf hinv hbusy
  have hheld := frameHeld_of_busy hinv hbusy
  obtain ⟨⟨h1, h2⟩, -, hpos⟩ := (frameHeld_iff _).1 hheld
  obtain ⟨v, hv, hexec⟩ := exec_emitByte_of_held hwf hbusy hheld
  refine ⟨v, _, hv, hexec, advance_consumer _, advance_cfg _, advance_host _, advance_fnResult _, by omega,
    fun hlast => ?_, fun hmore => ?_⟩
  · obtain ⟨hphase, hpos', hsnapN⟩ := advance_last (s := withConsumer s (accept s.consumer v)) hlast
    refine ⟨hphase, hpos', hsnapN, advance_fcode _, fun c hc => ?_⟩
    have hpos2 : s.block.pos.toNat = 24 * s.block.snapN + 2 := by omega
    rw [hpos2, wireFrame_last s.cfg h1 hc] at hv
    exact (Option.some.inj hv).symm
  · rw [advance_more (s := withConsumer s (accept s.consumer v)) hmore]
    exact ⟨rfl, pos_add_one_toNat hheld, rfl⟩

/-! ### What the port operations leave unchanged (R19, R67 to R72, R93, R101) -/

theorem exec_emitByte_frame {s t : State} (h : exec .emitByte s = .next t) :
    t.host = s.host ∧ t.fnResult = s.fnResult ∧ t.block.fcode = s.block.fcode := by
  obtain ⟨-, ⟨-, rfl⟩ | ⟨v, -, -, -, rfl⟩⟩ := exec_emitByte_next h
  · exact ⟨rfl, rfl, rfl⟩
  · exact ⟨advance_host _, advance_fnResult _, advance_fcode _⟩

theorem exec_submitFrame_frame {s t : State} {colors : List Color} (h : exec (.submitFrame colors) s = .next t) :
    t.consumer = s.consumer ∧ t.fnResult = s.fnResult ∧ t.host = { s.host with offer := t.host.offer } := by
  obtain ⟨-, ⟨-, rfl⟩ | ⟨-, -, rfl⟩ | ⟨-, -, rfl⟩ | ⟨-, -, -, rfl⟩⟩ := exec_submitFrame_next h <;>
    exact ⟨rfl, rfl, rfl⟩

/-- RESET writes of the consumer its mark alone (R102). -/
theorem resetBlock_consumer_frame (s : State) :
    (resetBlock s).consumer = { s.consumer with cut := (resetBlock s).consumer.cut } := by
  rw [resetBlock_consumer]
  split
  · unfold markCut
    split <;> rfl
  · rfl

/-- Settles O20: each operation's own frame, read off field by field. -/
theorem portOperationsFrame : Obligations.PortOperationsFrame := by
  intro s t i hi h
  refine ⟨exec_cfg h, ?_⟩
  obtain rfl | rfl | rfl | ⟨colors, rfl⟩ := hi
  · obtain ⟨hhost, hresult, hcode⟩ := exec_emitByte_frame h
    obtain ⟨hconsumer, -⟩ := exec_emitByte_moves_owed h
    simp [hhost, hresult, hcode, hconsumer]
  · cases h
    simp
  · cases h
    rw [resetBlock_consumer_frame]
    simp
  · obtain ⟨hconsumer, hresult, hhost⟩ := exec_submitFrame_frame h
    rw [hhost]
    simp [hconsumer, hresult]

/-! ### A whole frame, with anything but RESET in between (R77) -/

/-- R26, R71: only EMIT_BYTE adds to the bytes the consumer has accepted. -/
theorem exec_stream_of_ne_emitByte {s t : State} {i : Instr} (hemit : i ≠ .emitByte) (h : exec i s = .next t) :
    stream t = stream s := by
  obtain hi | ⟨colors, rfl⟩ | ⟨-, rfl⟩ | hwire | ⟨-, rfl⟩ | ⟨r, rfl⟩ := exec_next_cases h
  · exact absurd hi hemit
  · rw [stream, (exec_submitFrame_frame h).1, stream]
  · rw [stream, resetBlock_consumer_frame, stream]
  · obtain ⟨bits, rfl⟩ := exec_token_next hwire h
    rfl
  · rfl
  · rfl

/-- No operation but EMIT_BYTE and RESET takes anything off the front of what is owed. -/
theorem exec_owed_prefix {s t : State} {i : Instr} (hemit : i ≠ .emitByte) (hreset : i ≠ .reset)
    (h : exec i s = .next t) : owed s <+: owed t := by
  have hgrows := exec_extends_stream_owed hreset h
  rwa [exec_stream_of_ne_emitByte hemit h, List.prefix_append_right_inj] at hgrows

/-- R77: as long as bytes are owed, every EMIT_BYTE delivers the next of them, whatever else but RESET happens. -/
theorem execAll_stream {ops : List Instr} {s u : State} (hreset : Instr.reset ∉ ops)
    (hcount : ops.count .emitByte ≤ (owed s).length) (h : execAll ops s = .next u) :
    stream u = stream s ++ (owed s).take (ops.count .emitByte) := by
  induction ops generalizing s with
  | nil =>
    cases h
    simp
  | cons i is ih =>
    rw [List.mem_cons, not_or] at hreset
    obtain ⟨hi, his⟩ := hreset
    rw [execAll] at h
    split at h
    next s₁ h₁ =>
      by_cases hemit : i = .emitByte
      · rw [hemit] at h₁ hcount ⊢
        rw [List.count_cons_self] at hcount ⊢
        obtain ⟨hconsumer, howed⟩ := exec_emitByte_moves_owed h₁
        have hstream : stream s₁ = stream s ++ (owed s).take 1 := by simp [stream, hconsumer]
        have hless : is.count .emitByte ≤ (owed s₁).length := by
          rw [howed, List.length_drop]
          omega
        rw [ih his hless h, hstream, howed, List.append_assoc, ← List.take_add, Nat.add_comm]
      · rw [List.count_cons_of_ne hemit] at hcount ⊢
        obtain ⟨more, hmore⟩ := exec_owed_prefix hemit (Ne.symm hi) h₁
        have hless : is.count .emitByte ≤ (owed s₁).length := by
          rw [← hmore, List.length_append]
          omega
        rw [ih his hless h, exec_stream_of_ne_emitByte hemit h₁, ← hmore, List.take_append_of_le_length hcount]
    next => cases h
    next => cases h

theorem emitTimes_succ {k : Nat} {s s₁ : State} (h : exec .emitByte s = .next s₁) :
    emitTimes (k + 1) s = emitTimes k s₁ := by
  rw [emitTimes, repeatOp, h, emitTimes]

/-- R36, R71: a held frame's EMIT_BYTE steps all succeed, and the one for its last byte is the one that ends BUSY. -/
theorem emitTimes_of_held {k : Nat} {s : State} (hwf : s.cfg.wf = true) (hbusy : s.block.phase = .busy)
    (hheld : frameHeld s.block = true) (hk : s.block.pos.toNat + k ≤ 24 * s.block.snapN + 3) :
    ∃ u, emitTimes k s = .next u ∧
      u.block.phase = if s.block.pos.toNat + k = 24 * s.block.snapN + 3 then .idle else .busy := by
  induction k generalizing s with
  | zero =>
    obtain ⟨-, -, hpos⟩ := (frameHeld_iff _).1 hheld
    exact ⟨s, rfl, by rw [if_neg (by omega), hbusy]⟩
  | succ k ih =>
    obtain ⟨v, -, hexec⟩ := exec_emitByte_of_held hwf hbusy hheld
    rw [emitTimes_succ hexec]
    by_cases hlast : s.block.pos.toNat + 1 = 24 * s.block.snapN + 3
    · obtain ⟨hphase, -⟩ := advance_last (s := withConsumer s (accept s.consumer v)) hlast
      obtain rfl : k = 0 := by omega
      exact ⟨_, rfl, by rw [if_pos hlast, hphase]⟩
    · rw [advance_more (s := withConsumer s (accept s.consumer v)) hlast, withConsumer_block]
      have hpos : (s.block.pos + 1).toNat + k = s.block.pos.toNat + (k + 1) := by
        rw [pos_add_one_toNat hheld]
        omega
      rw [← hpos] at hk ⊢
      exact ih (s := withBlock _ { s.block with pos := s.block.pos + 1 }) hwf hbusy
        (frameHeld_pos_add_one hheld hlast) hk

/-- An accepted frame is held from its first byte (R13, R70). -/
theorem frameHeld_loadFrame (s : State) {colors : List Color} (h1 : 1 ≤ colors.length) (h2 : colors.length ≤ 2730) :
    frameHeld (loadFrame s colors).block = true :=
  (frameHeld_iff _).2 ⟨⟨h1, h2⟩, List.length_map .., Nat.succ_pos _⟩

/-- Settles O32: after the submission the whole frame is owed, and held at its first byte. -/
theorem wholeFrameDelivered : Obligations.WholeFrameDelivered := by
  intro s f hwf hidle h1 h2
  have hencoding : frameEncoding s.cfg f = .ok (wireFrame s.cfg f.colors.length (f.colors.map toRgb)) := by
    rw [frameEncoding, (frameFault_eq_none_iff _).2 ⟨h1, h2⟩]
  have hlength : (wireFrame s.cfg f.colors.length (f.colors.map toRgb)).length = 24 * f.colors.length + 3 := by
    rw [wireFrame_length, List.length_map]
  have hemit (k : Nat) (hk : k ≤ 24 * f.colors.length + 3) : ∃ u, emitTimes k (loadFrame s f.colors) = .next u ∧
      u.block.phase = if k = 24 * f.colors.length + 3 then .idle else .busy := by
    simpa [loadFrame_block] using
      emitTimes_of_held (k := k) (s := loadFrame s f.colors) hwf rfl (frameHeld_loadFrame s h1 h2)
        (by simpa [loadFrame_block] using hk)
  refine ⟨_, loadFrame s f.colors, hencoding, hlength, exec_submitFrame_accepted hwf hidle h1 h2, ?_, ?_, ?_⟩
  · intro ops u hreset hcount hops
    exact execAll_stream hreset (by rwa [owed_loadFrame, hlength]) hops
  · intro k hk
    obtain ⟨u, hu, hphase⟩ := hemit k hk.le
    exact ⟨u, hu, hphase.trans (if_neg hk.ne)⟩
  · obtain ⟨u, hu, hphase⟩ := hemit _ le_rfl
    exact ⟨u, hu, hphase.trans (if_pos rfl)⟩

/-! ### The counter realisation (R78) -/

/-- The counters that stand at payload byte `k`: its LED, its channel there and its bit there (R44). -/
def payloadCounters (k : Nat) : Counters := { hdr := 3, led := k / 24, ch := k % 24 / 8, i := k % 8 }

/-- The carries of `i` into `ch` and of `ch` into `led` are those of `k` into `k / 8` and `k / 24`. -/
theorem countersNext_payloadCounters (k : Nat) : countersNext (payloadCounters k) = payloadCounters (k + 1) := by
  by_cases hbit : k % 8 < 7
  · have hi : (k + 1) % 8 = k % 8 + 1 := by omega
    have hch : (k + 1) % 24 / 8 = k % 24 / 8 := by omega
    have hled : (k + 1) / 24 = k / 24 := by omega
    simp [countersNext, payloadCounters, hbit, hi, hch, hled]
  have hi : (k + 1) % 8 = 0 := by omega
  by_cases hchannel : k % 24 / 8 < 2
  · have hch : (k + 1) % 24 / 8 = k % 24 / 8 + 1 := by omega
    have hled : (k + 1) / 24 = k / 24 := by omega
    simp [countersNext, payloadCounters, hbit, hchannel, hi, hch, hled]
  · have hch : (k + 1) % 24 / 8 = 0 := by omega
    have hled : (k + 1) / 24 = k / 24 + 1 := by omega
    simp [countersNext, payloadCounters, hbit, hchannel, hi, hch, hled]

theorem countersAt_payload (k : Nat) : countersAt (3 + k) = payloadCounters k := by
  induction k with
  | zero => rfl
  | succ k ih => rw [← Nat.add_assoc, countersAt, ih, countersNext_payloadCounters]

/-- Settles O41: a header byte is read from the header in both; a payload byte is the closed form of R44 in both. -/
theorem countersOfferSameBytes : Obligations.CountersOfferSameBytes := by
  intro p cs k hk
  by_cases hheader : k < 3
  · interval_cases k <;> exact ⟨_, rfl, rfl⟩
  · obtain ⟨j, rfl⟩ : ∃ j, k = 3 + j := ⟨k - 3, by omega⟩
    have hled : j / 24 < cs.length := by omega
    have hget : cs[j / 24]? = some cs[j / 24] := List.getElem?_eq_getElem hled
    refine ⟨_, ?_, payloadClosedForm p cs.length cs j _ hget⟩
    rw [countersAt_payload, countersByte, payloadCounters]
    simp [hget]

end Sys2Proof.Machine

/-! ### The host: one Player iteration, the Player's loop, partial updates (R79 to R85, R108, log 19) -/

namespace Sys2Proof.Machine

/-! ### The slots of one Player iteration (R82) -/

theorem repeatOp_succ_of_next {f : State → Answer} {k : Nat} {s s₁ : State} (h : f s = .next s₁) :
    repeatOp f (k + 1) s = repeatOp f k s₁ := by
  rw [repeatOp, h]

/-- The block's side of EMIT_BYTE neither reads nor writes the script. -/
theorem advance_withScript (s : State) (script : List Slot) :
    advance (withScript s script) = withScript (advance s) script := by
  unfold advance
  rw [withScript_block]
  split_ifs <;> rfl

/-- EMIT_BYTE neither reads nor writes the script. -/
theorem exec_emitByte_withScript {s t : State} (h : exec .emitByte s = .next t) (script : List Slot) :
    exec .emitByte (withScript s script) = .next (withScript t script) := by
  obtain ⟨hwf, ⟨hphase, rfl⟩ | ⟨v, hbusy, hheld, hv, rfl⟩⟩ := exec_emitByte_next h
  · exact (emitHasNoStepUnlessBusy (withScript t script) hphase).2 hwf
  · obtain ⟨v', hv', hexec⟩ := exec_emitByte_of_held (s := withScript s script) hwf hbusy hheld
    obtain rfl : v = v' := Option.some.inj (hv.symm.trans hv')
    rw [hexec, ← advance_withScript]
    rfl

/-- The slot of one EMIT_BYTE. -/
def emitSlot : Slot := [{ port := .byteOut, bytes := [] }]

/-- R82: the slots of an iteration are the submission and one EMIT_BYTE for each byte of the wire frame. -/
theorem frameSlots_eq (f : Frame) :
    frameSlots f = [{ port := .frameIn, bytes := countedBytes f.colors }] ::
      List.replicate (24 * f.colors.length + 3) emitSlot := rfl

theorem step_emitSlot {s : State} {rest : List Slot} (h : s.host.script = emitSlot :: rest) :
    step s = exec .emitByte (withScript s rest) :=
  stepRunsTransaction s _ rest .emitByte h Port.noConfusion rfl

/-- R52: slots of one EMIT_BYTE each, taken by the step, are as many EMIT_BYTE operations, and come off the script. -/
theorem repeatOp_step_emitSlots {k : Nat} {s u : State} (h : emitTimes k s = .next u) (rest : List Slot) :
    repeatOp step k (withScript s (List.replicate k emitSlot ++ rest)) =
      .next (withScript u rest) := by
  induction k generalizing s with
  | zero =>
    cases h
    rfl
  | succ k ih =>
    rw [emitTimes, repeatOp] at h
    split at h
    next s₁ h₁ =>
      have hstep : step (withScript s (List.replicate (k + 1) emitSlot ++ rest)) =
          .next (withScript s₁ (List.replicate k emitSlot ++ rest)) :=
        (step_emitSlot rfl).trans (exec_emitByte_withScript h₁ _)
      rw [repeatOp_succ_of_next hstep]
      exact ih h
    next => cases h
    next => cases h

/-- R51, R70: the first slot of an iteration submits the frame, which is accepted in IDLE. -/
theorem step_frameSlots {s : State} {f : Frame} {rest : List Slot} (hwf : s.cfg.wf = true)
    (hidle : s.block.phase = .idle) (hscript : s.host.script = frameSlots f ++ rest)
    (h1 : 1 ≤ f.colors.length) (h2 : f.colors.length ≤ 2730) :
    step s = .next (withScript (loadFrame s f.colors)
      (List.replicate (24 * f.colors.length + 3) emitSlot ++ rest)) := by
  have hfits : countFits f.colors.length = true := decide_eq_true (by omega)
  have hdecode : decode s.cfg .frameIn false (countedBytes f.colors) = .ok (.submitFrame f.colors, []) := by
    rw [← List.append_nil (countedBytes f.colors)]
    exact decode_encode (i := .submitFrame f.colors) hwf hfits []
  rw [frameSlots_eq] at hscript
  exact (stepRunsTransaction s _ _ _ hscript Port.noConfusion hdecode).trans
    (exec_submitFrame_accepted (s := withScript s _) hwf hidle h1 h2)

/-- Settles O35: one step for the submission, and the slots that follow are the EMIT_BYTE operations of O32. -/
theorem playerIterationSendsFrame : Obligations.PlayerIterationSendsFrame := by
  intro s f rest w hwf hidle hscript hencoding
  obtain ⟨hdomain, hw⟩ := frameEncoding_ok hencoding
  obtain ⟨h1, h2⟩ := (encodable_iff _).1 hdomain
  obtain ⟨w', t, hencoding', hlength, hsubmit, -, -, u, hu, hphase⟩ := wholeFrameDelivered s f hwf hidle h1 h2
  obtain rfl : w' = w := Except.ok.inj (hencoding'.symm.trans hencoding)
  obtain rfl : loadFrame s f.colors = t :=
    Host.Outcome.next.inj ((exec_submitFrame_accepted hwf hidle h1 h2).symm.trans hsubmit)
  have hstream : stream u = stream s ++ w' := by
    rw [emitTimes_stream hu, owed_loadFrame, ← hw, List.take_of_length_le hlength.le, stream, loadFrame_consumer,
      stream]
  refine ⟨withScript u rest, ?_, hstream, hphase, rfl⟩
  rw [repeatOp_succ_of_next (step_frameSlots hwf hidle hscript h1 h2), repeatOp_step_emitSlots hu rest]

/-! ### One frame of the Player (R79, R82 to R85, R108) -/

theorem frameAllowed_iff (f : Frame) : frameAllowed f = true ↔ 1 ≤ f.colors.length ∧ f.colors.length ≤ 2730 :=
  encodable_iff _

/-- R79: the host's duty is the domain of ENCODE_FRAME. -/
theorem frameEncoding_of_allowed (p : Params) {f : Frame} (h : frameAllowed f = true) :
    frameEncoding p f = .ok (wireFrame p f.colors.length (f.colors.map toRgb)) := by
  rw [frameEncoding, (frameFault_eq_none_iff _).2 ((frameAllowed_iff f).1 h)]

theorem frameEncoding_of_not_allowed (p : Params) {f : Frame} (h : ¬ frameAllowed f = true) :
    ∃ code, frameEncoding p f = .error code := by
  cases hfault : frameFault f.colors.length with
  | none => exact absurd ((frameAllowed_iff f).2 ((frameFault_eq_none_iff _).1 hfault)) h
  | some code => exact ⟨code, by rw [frameEncoding, hfault]⟩

/-- R96: a frame that cannot be encoded ends the play, whatever the Transport would report (log 19). -/
theorem playFrame_of_not_allowed (p : Params) (written : Bool) {pl : Player} {f : Frame} {later : List Frame}
    (hframes : pl.frames = f :: later) (h : ¬ frameAllowed f = true) :
    playFrame p written pl = { pl with phase := .idle, frames := [], report := some .invalidArgument } := by
  obtain ⟨code, hcode⟩ := frameEncoding_of_not_allowed p h
  rw [playFrame, hframes]
  dsimp only
  rw [hcode]

/-- R83: what is written for a frame, one whole wire frame. -/
def frameWrite (p : Params) (f : Frame) : List Byte := wireFrame p f.colors.length (f.colors.map toRgb)

theorem playFrame_of_allowed (p : Params) (written : Bool) {pl : Player} {f : Frame} {later : List Frame}
    (hframes : pl.frames = f :: later) (h : frameAllowed f = true) :
    playFrame p written pl =
      if written then
        { pl with
          phase := if later = [] then .idle else .playing
          frames := later
          writes := pl.writes ++ [frameWrite p f]
          clock := pl.clock + f.holdDurationMs }
      else
        { pl with
          phase := .idle
          frames := []
          writes := pl.writes ++ [frameWrite p f]
          report := some .transportWriteFailure } := by
  rw [playFrame, hframes]
  dsimp only
  rw [frameEncoding_of_allowed p h]
  rfl

/-! ### The Player's loop (R82, R84) -/

/-- A Player that is Idle stays as it is, whatever reports are left. -/
theorem playOn_of_idle (p : Params) (reports : List Bool) {pl : Player} (h : pl.phase = .idle) :
    playOn p reports pl = pl := by
  cases reports with
  | nil => rfl
  | cons written more => rw [playOn, h]

theorem playOn_of_playing (p : Params) (written : Bool) (more : List Bool) {pl : Player} (h : pl.phase = .playing) :
    playOn p (written :: more) pl = playOn p more (playFrame p written pl) := by
  rw [playOn, h]

/-- The Player after the first `k` frames of an animation, every write of them a success. -/
def playedTo (p : Params) (frames : List Frame) (k : Nat) : Player where
  phase  := if frames.drop k = [] then .idle else .playing
  frames := frames.drop k
  writes := (frames.take k).map (frameWrite p)
  clock  := ((frames.take k).map Frame.holdDurationMs).sum
  report := none

theorem playedTo_phase_playing (p : Params) {frames : List Frame} {k : Nat} (hk : k < frames.length) :
    (playedTo p frames k).phase = .playing :=
  if_neg (by simpa [List.drop_eq_nil_iff] using hk)

theorem startPlay_eq_playedTo (p : Params) {frames : List Frame} (hallowed : frames.all frameAllowed = true)
    (huniform : animationUniform frames = true) : startPlay frames = playedTo p frames 0 := by
  rw [startPlay, hallowed, huniform]
  rfl

section
variable {p : Params} {frames : List Frame} {k : Nat}

/-- R82, R85: a success takes the Player one frame further. -/
theorem playFrame_success (hallowed : frames.all frameAllowed = true) (hk : k < frames.length) :
    playFrame p true (playedTo p frames k) = playedTo p frames (k + 1) := by
  have hframe : frameAllowed frames[k] = true := List.all_eq_true.1 hallowed _ (List.getElem_mem hk)
  rw [playFrame_of_allowed p true (List.drop_eq_getElem_cons hk) hframe, if_pos rfl]
  simp [playedTo, List.take_succ_eq_append_getElem hk, -List.take_append_getElem]

/-- R84: a failure counts as a write, takes no hold, and ends the play. -/
theorem playFrame_failure (hallowed : frames.all frameAllowed = true) (hk : k < frames.length) :
    playFrame p false (playedTo p frames k) =
      { phase := .idle
        frames := []
        writes := (frames.take (k + 1)).map (frameWrite p)
        clock := ((frames.take k).map Frame.holdDurationMs).sum
        report := some .transportWriteFailure } := by
  have hframe : frameAllowed frames[k] = true := List.all_eq_true.1 hallowed _ (List.getElem_mem hk)
  rw [playFrame_of_allowed p false (List.drop_eq_getElem_cons hk) hframe]
  simp [playedTo, List.take_succ_eq_append_getElem hk, -List.take_append_getElem]

/-- R82: `k` successes take the Player through the first `k` frames. -/
theorem play_successes (hallowed : frames.all frameAllowed = true) (huniform : animationUniform frames = true)
    (hk : k ≤ frames.length) (more : List Bool) :
    play p frames (List.replicate k true ++ more) = playOn p more (playedTo p frames k) := by
  induction k generalizing more with
  | zero => rw [play, startPlay_eq_playedTo p hallowed huniform]; rfl
  | succ k ih =>
    rw [List.replicate_succ', List.append_assoc, ih (by omega), List.singleton_append,
      playOn_of_playing p true more (playedTo_phase_playing p hk), playFrame_success hallowed hk]

end

/-- Settles O56: as many successes as there are frames leave no frame, and the Player Idle. -/
theorem playWritesEveryFrame : Obligations.PlayWritesEveryFrame := by
  intro p frames reports hallowed huniform hlength hreports
  obtain ⟨m, hm⟩ := Nat.exists_eq_add_of_le hlength
  have hsplit : reports = List.replicate frames.length true ++ List.replicate m true := by
    rw [List.replicate_append_replicate, ← hm]
    exact List.eq_replicate_of_mem hreports
  have hidle : (playedTo p frames frames.length).phase = .idle := if_pos List.drop_length
  rw [hsplit, play_successes hallowed huniform le_rfl, playOn_of_idle p _ hidle]
  simp only [playedTo, List.drop_length, List.take_length, if_true]
  rfl

/-- Settles O57: `k - 1` successes, then the failure, after which the Player is Idle. -/
theorem playStopsAtFailedWrite : Obligations.PlayStopsAtFailedWrite := by
  intro p frames k later hallowed huniform h1 hk
  obtain ⟨j, rfl⟩ : ∃ j, k = j + 1 := ⟨k - 1, by omega⟩
  rw [Nat.add_sub_cancel, play_successes hallowed huniform (Nat.le_of_succ_le hk),
    playOn_of_playing p false later (playedTo_phase_playing p hk), playFrame_failure hallowed hk,
    playOn_of_idle p later rfl]
  rfl

/-! ### Animations that break a duty (R79, R80, R96, R108) -/

/-- R80: no two frames of the animation have different lengths. -/
theorem animationUniform_iff (frames : List Frame) :
    animationUniform frames = true ↔ ∀ f ∈ frames, ∀ g ∈ frames, f.colors.length = g.colors.length := by
  cases frames with
  | nil => simp [animationUniform]
  | cons x xs =>
    have hfirst : animationUniform (x :: xs) = true ↔ ∀ f ∈ x :: xs, f.colors.length = x.colors.length := by
      simp [animationUniform]
    rw [hfirst]
    exact ⟨fun h f hf g hg => (h f hf).trans (h g hg).symm, fun h f hf => h f hf x List.mem_cons_self⟩

theorem play_of_invalid (p : Params) {frames : List Frame} (reports : List Bool)
    (h : ¬ (frames.all frameAllowed && animationUniform frames) = true) :
    play p frames reports =
      { phase := .idle, frames := [], writes := [], clock := 0, report := some .invalidArgument } := by
  rw [play, startPlay, if_neg h, playOn_of_idle p reports rfl]

/-- Settles O58: each ground contradicts one of the two duties checked at the start; the frame that cannot be encoded
contradicts the first. -/
theorem playReportsInvalidAnimation : Obligations.PlayReportsInvalidAnimation := by
  refine ⟨fun p frames reports hground => play_of_invalid p reports fun hvalid => ?_,
    fun p written pl f later hframes hlength => playFrame_of_not_allowed p written hframes fun hallowed => ?_⟩
  · obtain ⟨hallowed, huniform⟩ := (Bool.and_eq_true _ _).mp hvalid
    obtain ⟨f, hf, hlength⟩ | ⟨f, hf, g, hg, hne⟩ := hground
    · have hdomain := (frameAllowed_iff f).1 (List.all_eq_true.1 hallowed f hf)
      omega
    · exact hne ((animationUniform_iff frames).1 huniform f hf g hg)
  · have hdomain := (frameAllowed_iff f).1 hallowed
    omega

/-! ### Partial updates (R81) -/

/-- R81, LED by LED: the first takes its own colour or else the prior one, and the rest is resolved from the rest. -/
theorem resolvePrevious_cons (prior : List Color) (own : Option Color) (update : List (Option Color)) :
    resolvePrevious prior (own :: update) =
      (own.or prior[0]?).bind fun c => (resolvePrevious prior.tail update).map (c :: ·) := by
  cases prior <;> cases own <;> rfl

theorem resolvePrevious_some {prior full : List Color} {update : List (Option Color)}
    (h : resolvePrevious prior update = some full) :
    full.length = update.length ∧ ∀ j : Nat, full[j]? = update[j]?.bind fun own => own.or prior[j]? := by
  induction update generalizing prior full with
  | nil =>
    cases h
    simp
  | cons own update ih =>
    rw [resolvePrevious_cons, Option.bind_eq_some_iff] at h
    obtain ⟨c, hc, h⟩ := h
    obtain ⟨later, hlater, rfl⟩ := Option.map_eq_some_iff.1 h
    obtain ⟨hlength, hcolors⟩ := ih hlater
    refine ⟨by simp [hlength], fun j => ?_⟩
    cases j with
    | zero => simpa using hc.symm
    | succ j => simpa using hcolors j

theorem resolvePrevious_eq_none_iff (prior : List Color) (update : List (Option Color)) :
    resolvePrevious prior update = none ↔ ∃ j : Nat, update[j]? = some none ∧ prior.length ≤ j := by
  induction update generalizing prior with
  | nil => simp [resolvePrevious]
  | cons own update ih =>
    have hfirst : own.or prior[0]? = none ↔ own = none ∧ prior.length ≤ 0 := by
      rw [Option.or_eq_none_iff, List.getElem?_eq_none_iff]
    have hsplit : resolvePrevious prior (own :: update) = none ↔
        own.or prior[0]? = none ∨ resolvePrevious prior.tail update = none := by
      rw [resolvePrevious_cons]
      cases own.or prior[0]? <;> simp
    have hindex : (∃ j : Nat, (own :: update)[j]? = some none ∧ prior.length ≤ j) ↔
        (own = none ∧ prior.length ≤ 0) ∨ ∃ j : Nat, update[j]? = some none ∧ prior.tail.length ≤ j := by
      rw [← Nat.or_exists_add_one]
      simp
    rw [hsplit, hfirst, ih, hindex]

/-- Settles O59: the colour at every index is the LED's own or else the prior one. -/
theorem partialUpdateResolved : Obligations.PartialUpdateResolved := by
  intro prior update
  refine ⟨fun full h => ?_, resolvePrevious_eq_none_iff prior update⟩
  obtain ⟨hlength, hcolors⟩ := resolvePrevious_some h
  refine ⟨hlength, fun j => ⟨fun c hc => ?_, fun hkept => ?_⟩⟩
  · rw [hcolors, hc]
    rfl
  · rw [hcolors, hkept]
    rfl

end Sys2Proof.Machine

/-! ### Faults: operations offered together, what raises a fault and what one leaves (R89 to R94, logs 4, 9, 22) -/

namespace Sys2Proof.Machine

/-! ### RESET and status reads among the operations of a slot (R92) -/

theorem step_of_slot {s : State} {slot : Slot} {rest : List Slot} (h : s.host.script = slot :: rest) :
    step s = runAll (arbitrate slot) (withScript s rest) := by
  rw [step, takeStep, h]

/-- A RESET drops all but the status reads before it. -/
theorem arbitrate_of_reset {slot : Slot} (h : ∃ t ∈ slot, t.port = .rst) :
    ∃ r ∈ slot, r.port = .rst ∧ arbitrate slot = slot.filter (fun t => decide (t.port = .status)) ++ [r] := by
  rw [arbitrate]
  cases hresets : slot.filter (fun t => decide (t.port = .rst)) with
  | nil =>
    obtain ⟨t, ht, hport⟩ := h
    exact absurd (decide_eq_true hport) (List.filter_eq_nil_iff.1 hresets t ht)
  | cons r more =>
    have hr : r ∈ slot.filter (fun t => decide (t.port = .rst)) := hresets ▸ List.mem_cons_self
    obtain ⟨hmem, hport⟩ := List.mem_filter.1 hr
    exact ⟨r, hmem, of_decide_eq_true hport, rfl⟩

/-- Without a RESET, the status reads come before the others, which keep their order. -/
theorem arbitrate_of_no_reset {slot : Slot} (h : ∀ t ∈ slot, t.port ≠ .rst) :
    arbitrate slot = slot.filter (fun t => decide (t.port = .status)) ++
      slot.filter (fun t => decide (t.port ≠ .status)) := by
  have hresets : slot.filter (fun t => decide (t.port = .rst)) = [] := by
    simpa using h
  have hothers : slot.filter (fun t => decide (t.port ≠ .status ∧ t.port ≠ .rst)) =
      slot.filter (fun t => decide (t.port ≠ .status)) :=
    List.filter_congr fun t ht => by simp [h t ht]
  rw [arbitrate, hresets, hothers]

/-- A transaction whose bytes are one operation executes it (R51). -/
theorem runTransaction_of_decode {t : Transaction} {s : State} {i : Instr} (hport : t.port ≠ .wire)
    (hdecode : decode s.cfg t.port false t.bytes = .ok (i, [])) : runTransaction t s = exec i s := by
  have hfetch : fetch t s = .ready i s := by rw [fetch_of_port hport, fetchTransaction, hdecode]
  rw [runTransaction, hfetch]

theorem runTransaction_status {t : Transaction} {s : State} (hport : t.port = .status)
    (hdecode : decode s.cfg .status false t.bytes = .ok (.readStatus, [])) :
    runTransaction t s = .next (withStatus s (statusByte s.block)) :=
  runTransaction_of_decode (ne_of_eq_of_ne hport Port.noConfusion) (by rwa [hport])

theorem runTransaction_reset {t : Transaction} {s : State} (hport : t.port = .rst) (hbytes : t.bytes = []) :
    runTransaction t s = exec .reset s :=
  runTransaction_of_decode (ne_of_eq_of_ne hport Port.noConfusion) (by rw [hport, hbytes]; rfl)

/-- The status reads of a slot, however many, do what one of them does: none changes the block, so each returns the
same byte (R72). -/
theorem runAll_status_reads {slot : Slot} {s : State}
    (h : ∀ t ∈ slot, t.port = .status → decode s.cfg .status false t.bytes = .ok (.readStatus, [])) :
    runAll (slot.filter (fun t => decide (t.port = .status))) s =
      .next (if slot.any (fun t => decide (t.port = .status)) then withStatus s (statusByte s.block) else s) := by
  induction slot generalizing s with
  | nil => rfl
  | cons t ts ih =>
    obtain ⟨ht, hts⟩ := List.forall_mem_cons.1 h
    by_cases hport : t.port = .status
    · have hrun := runTransaction_status hport (ht hport)
      have hread : decide (t.port = .status) = true := decide_eq_true hport
      rw [List.filter_cons, List.any_cons, hread, if_pos rfl, runAll_cons_of_next hrun,
        ih (s := withStatus s (statusByte s.block)) hts, Bool.true_or, if_pos rfl]
      split <;> rfl
    · have hother : decide (t.port = .status) = false := decide_eq_false hport
      rw [List.filter_cons, List.any_cons, hother, if_neg Bool.false_ne_true, ih hts, Bool.false_or]

/-- Settles O6: the slot comes down to its status reads and one RESET after them. -/
theorem resetWinsOverOthers : Obligations.ResetWinsOverOthers := by
  intro s slot rest hscript hreset hbytes hreads
  obtain ⟨r, hr, hport, harbitrate⟩ := arbitrate_of_reset hreset
  have hrun := runAll_status_reads (s := withScript s rest) hreads
  rw [step_of_slot hscript, harbitrate, runAll_append_of_next hrun, runAll_singleton,
    runTransaction_reset hport (hbytes r hr hport), withScript_block]

/-- Settles O7: the status reads come first, and all together write STATUS once. -/
theorem statusReadSeesStateBefore : Obligations.StatusReadSeesStateBefore := by
  intro s slot rest hscript hstatus hreset hreads
  have hany : slot.any (fun t => decide (t.port = .status)) = true := by simpa using hstatus
  have hrun := runAll_status_reads (s := withScript s rest) hreads
  rw [if_pos hany, withScript_block] at hrun
  rw [step_of_slot hscript, arbitrate_of_no_reset hreset, runAll_append_of_next hrun]

/-! ### Raising a fault (R89 to R91, R93) -/

/-- A byte delivered leaves the block BUSY, or IDLE after the last one (R71). -/
theorem advance_phase_ne_fault {s : State} (hbusy : s.block.phase = .busy) : (advance s).block.phase ≠ .fault := by
  by_cases hlast : s.block.pos.toNat + 1 = 24 * s.block.snapN + 3
  · simp [(advance_last hlast).1]
  · simp [advance_more hlast, hbusy]

theorem exec_emitByte_phase_ne_fault {s t : State} (hphase : s.block.phase ≠ .fault) (h : exec .emitByte s = .next t) :
    t.block.phase ≠ .fault := by
  obtain ⟨-, ⟨-, rfl⟩ | ⟨v, hbusy, -, -, rfl⟩⟩ := exec_emitByte_next h
  · exact hphase
  · exact advance_phase_ne_fault hbusy

/-- Settles O24: of the operations that write the block, EMIT_BYTE and RESET do not end in FAULT, and a submission
does only where it raises one of its two codes. -/
theorem onlySubmitRaises : Obligations.OnlySubmitRaises := by
  intro s t i h hphase hfault
  obtain rfl | ⟨colors, rfl⟩ | ⟨-, rfl⟩ | hblock := exec_block_eq_or h
  · exact absurd hfault (exec_emitByte_phase_ne_fault hphase h)
  · refine ⟨colors, rfl, ?_⟩
    obtain ⟨-, ⟨-, rfl⟩ | ⟨-, hlen, rfl⟩ | ⟨-, hlen, rfl⟩ | ⟨-, -, -, rfl⟩⟩ := exec_submitFrame_next h
    · exact absurd hfault hphase
    · exact .inl ⟨hlen, rfl⟩
    · exact .inr ⟨hlen, rfl⟩
    · exact Phase.noConfusion hfault
  · exact absurd ((resetBlock_phase s).symm.trans hfault) Phase.noConfusion
  · exact absurd (hblock ▸ hfault) hphase

/-- R90, R91: in IDLE the check of the frame that fails is the fault raised. -/
theorem exec_submitFrame_raises {s : State} {colors : List Color} {code : FCode} (hwf : s.cfg.wf = true)
    (hidle : s.block.phase = .idle) (hcode : frameFault colors.length = some code) :
    exec (.submitFrame colors) s = .next (raiseFault s code) := by
  have hready : frameInReady s.block = true := decide_eq_true hidle
  rw [exec, execSubmitFrame, withConfig_of_wf hwf, if_pos hready, hcode]

/-- R18: of the block, STATUS shows the code raised and FAULT. -/
theorem statusByte_raiseFault (s : State) (code : FCode) :
    statusByte (raiseFault s code).block = ((fcodeCode code).setWidth 8 <<< 2) ||| (phaseCode .fault).setWidth 8 := rfl

/-- Settles O15: one of the two checks fails, and the rest is what taking a fault writes whatever its code; in FAULT
nothing is owed. -/
theorem submitRaisesFault : Obligations.SubmitRaisesFault := by
  intro s colors hwf hidle hlen
  obtain ⟨code, hraised, hcode, hstatus⟩ : ∃ code, frameFault colors.length = some code ∧
      code = (if colors.length = 0 then FCode.emptyFrame else FCode.frameTooLong) ∧
      statusByte (raiseFault s code).block = if colors.length = 0 then 0x06 else 0x0A := by
    obtain hempty | hlong := hlen
    · rw [if_pos hempty, if_pos hempty]
      exact ⟨_, by rw [hempty]; rfl, rfl, by rw [statusByte_raiseFault]; rfl⟩
    · have hne : colors.length ≠ 0 := by omega
      rw [if_neg hne, if_neg hne]
      exact ⟨_, frameFault_of_too_long hlong, rfl, by rw [statusByte_raiseFault]; rfl⟩
  exact ⟨raiseFault s code, exec_submitFrame_raises hwf hidle hraised, rfl, hcode, rfl, rfl, rfl, hstatus, rfl, rfl,
    owed_of_not_busy Phase.noConfusion, rfl, rfl, rfl⟩

/-! ### A fault stays (R94) -/

/-- Settles O25: in FAULT no byte is delivered and a submission is held; the other operations write no register. -/
theorem faultIsSticky : Obligations.FaultIsSticky := by
  intro s t i hfault hreset h
  have hnotBusy : s.block.phase ≠ .busy := by simp [hfault]
  have hnotIdle : s.block.phase ≠ .idle := by simp [hfault]
  obtain rfl | ⟨colors, rfl⟩ | ⟨hi, -⟩ | hblock := exec_block_eq_or h
  · obtain ⟨-, ⟨-, rfl⟩ | ⟨v, hbusy, -⟩⟩ := exec_emitByte_next h
    · rfl
    · exact absurd hbusy hnotBusy
  · obtain ⟨-, ⟨-, rfl⟩ | ⟨hidle, -⟩ | ⟨hidle, -⟩ | ⟨hidle, -⟩⟩ := exec_submitFrame_next h
    · rfl
    all_goals exact absurd hidle hnotIdle
  · exact absurd hi hreset
  · exact hblock

end Sys2Proof.Machine

/-! ### Reset and the consumer's command boundary (R22, R34, R50, R101, R102, R107, logs 12, 13) -/

namespace Sys2Proof.Machine

/-! ### RESET (R22, R101, R102) -/

theorem statusByte_of_idle {b : Block} (hphase : b.phase = .idle) (hcode : b.fcode = .none) : statusByte b = 0x00 := by
  rw [statusByte, hphase, hcode]
  rfl

/-- Settles O10: RESET answers `resetBlock s`, whose registers are the reset values and whose frame is known; an IDLE
block offers and owes nothing. -/
theorem resetOperation : Obligations.ResetOperation := by
  intro s
  have hphase := resetBlock_phase s
  have hcode := resetBlock_fcode s
  have hnotBusy : (resetBlock s).block.phase ≠ .busy := ne_of_eq_of_ne hphase Phase.noConfusion
  exact ⟨resetBlock s, rfl, hphase, hcode, resetBlock_pos s, resetBlock_snapN s, statusByte_of_idle hphase hcode,
    fun p => byteOut_of_not_busy p hnotBusy, owed_of_not_busy hnotBusy, resetBlock_cfg s, resetBlock_host s,
    resetBlock_fnResult s, resetBlock_consumer_frame s⟩

/-- The first cut is marked where the accepted bytes end, and a mark stays (log 13). -/
theorem markCut_cut (c : Consumer) :
    (markCut c).cut = if c.cut = none then some (acceptedCount c) else c.cut := by
  rw [markCut]
  cases hcut : c.cut with
  | none => rfl
  | some k => exact hcut

theorem stream_length (s : State) : (stream s).length = acceptedCount s.consumer := List.length_append

/-- Settles O11: only a RESET with a frame in flight marks, and `markCut` writes no mark over another. -/
theorem resetMarksTruncation : Obligations.ResetMarksTruncation := by
  intro s t h
  cases h
  rw [resetBlock_consumer, stream_length]
  by_cases hflight : frameInFlight s.block = true
  · obtain ⟨hbusy, hpos⟩ := (frameInFlight_iff _).1 hflight
    rw [if_pos hflight, markCut_cut]
    simp only [hbusy, hpos, ne_eq, not_false_eq_true, true_and]
  · have hnone : ¬ (s.block.phase = .busy ∧ s.block.pos ≠ 0 ∧ s.consumer.cut = none) := fun ⟨hbusy, hpos, _⟩ =>
      hflight ((frameInFlight_iff _).2 ⟨hbusy, hpos⟩)
    rw [if_neg hflight, if_neg hnone]

/-! ### The refusals of the wire (R50, R102, logs 12, 13) -/

/-- The refusals that only the consumer's reading gives; tied to the model by `exec_not_wireRefusal` and
`runTransaction_not_wireRefusal`. -/
def WireRefusal : Refusal → Prop
  | .outsideWireLanguage _ => True
  | .afterTruncation => True
  | .tokenOutOfPlace => True
  | _ => False

/-- Under a well-formed configuration, an operation other than a token refuses nothing but a count outside the domain
of ENCODE_HEADER (R63). -/
theorem exec_refused {s : State} {i : Instr} {r : Refusal} (hwf : s.cfg.wf = true) (hport : i.port ≠ .wire)
    (h : exec i s = .refused r) : r = .headerOutOfDomain := by
  cases i with
  | cmdClockOut | symZero | symOne => exact absurd rfl hport
  | readStatus | reset => cases h
  | encodeChannelByte | encodeLed | encodePayload => cases (withConfig_of_wf hwf).symm.trans h
  | encodeHeader =>
    have h := (withConfig_of_wf hwf).symm.trans h
    split at h <;> cases h
    rfl
  | encodeFrame =>
    have h := (withConfig_of_wf hwf).symm.trans h
    split at h <;> cases h
  | emitByte | submitFrame =>
    have h := (withConfig_of_wf hwf).symm.trans h
    split at h
    · split at h <;> cases h
    · cases h

theorem exec_not_wireRefusal {s : State} {i : Instr} {r : Refusal} (hwf : s.cfg.wf = true) (hport : i.port ≠ .wire)
    (h : exec i s = .refused r) : ¬ WireRefusal r := by
  rw [exec_refused hwf hport h]
  exact id

/-! ### Reading what the language admits (R48, R50) -/

/-- No bytes are admitted inside a payload with nothing to come. -/
theorem stage_ne_payload_zero {p : Params} {st : WireStage} {bs : List Byte} (h : wireAdmits p st bs = true) :
    st ≠ .payload 0 := by
  rintro rfl
  simp [wireAdmits] at h

/-- At a command boundary the language admits no byte but `P_OPCODE`. -/
theorem wireAdmits_boundary_cons {p : Params} {op : Byte} {bs : List Byte}
    (h : wireAdmits p .boundary (op :: bs) = true) : op = p.opcode := by
  match bs, h with
  | [], h => simp [wireAdmits] at h
  | [_], h => simp [wireAdmits] at h
  | lo :: hi :: rest, h =>
    simp only [wireAdmits, Bool.and_eq_true, decide_eq_true_eq] at h
    obtain ⟨⟨hop, -⟩, -⟩ := h
    exact hop

/-- Where the language admits the bytes with what is still to come, a header that is not read is not complete. -/
theorem decodeHeaderToken_error {p : Params} {bs more : List Byte} {why : DecodeError}
    (hadmits : wireAdmits p .boundary (bs ++ more) = true) (h : decodeHeaderToken p bs = .error why) :
    why = .short := by
  unfold decodeHeaderToken at h
  split at h
  next =>
    cases h
    rfl
  next op bs =>
    rw [if_pos (wireAdmits_boundary_cons hadmits)] at h
    split at h
    next lo hi rest =>
      have hlegal : lengthLegal (lengthOf lo hi) = true := by
        simp only [List.cons_append, wireAdmits, Bool.and_eq_true] at hadmits
        obtain ⟨⟨-, hlegal⟩, -⟩ := hadmits
        exact hlegal
      rw [if_pos hlegal] at h
      cases h
    next =>
      cases h
      rfl

/-- Where the language admits the bytes with what is still to come, a symbol that is not read has not come. -/
theorem decodeSymbolToken_error {p : Params} {left : Nat} {bs more : List Byte} {why : DecodeError}
    (hadmits : wireAdmits p (.payload left) (bs ++ more) = true) (h : decodeSymbolToken p bs = .error why) :
    why = .short := by
  cases bs with
  | nil =>
    cases h
    rfl
  | cons b rest =>
    cases left with
    | zero => exact absurd rfl (stage_ne_payload_zero hadmits)
    | succ left =>
      simp only [List.cons_append, wireAdmits, Bool.and_eq_true, decide_eq_true_eq] at hadmits
      obtain ⟨hsymbol, -⟩ := hadmits
      simp only [decodeSymbolToken] at h
      split at h
      next => cases h
      next hzero =>
        rw [if_pos (hsymbol.resolve_left hzero)] at h
        cases h

/-- On bytes that the language admits with what is still to come, the only reason why no token is read is that it is
not complete. -/
theorem decode_error_of_admits {p : Params} {st : WireStage} {bs more : List Byte} {why : DecodeError}
    (hadmits : wireAdmits p st (bs ++ more) = true) (h : decode p .wire (atPayload st) bs = .error why) :
    why = .short := by
  cases st with
  | boundary => exact decodeHeaderToken_error hadmits h
  | payload left => exact decodeSymbolToken_error hadmits h

/-- A token decoded where it can stand is executed. -/
theorem exec_decoded_token {s : State} {bs rest : List Byte} {i : Instr} (hwf : s.cfg.wf = true)
    (hstage : s.consumer.stage ≠ .payload 0)
    (h : decode s.cfg .wire (atPayload s.consumer.stage) bs = .ok (i, rest)) : ∃ t, exec i s = .next t := by
  cases hst : s.consumer.stage with
  | boundary =>
    rw [hst] at h
    obtain ⟨lo, hi, -, hlegal, rfl⟩ := decodeHeaderToken_ok h
    exact ⟨_, by rw [exec_cmdClockOut_boundary hwf hst, if_pos hlegal]⟩
  | payload left =>
    rw [hst] at h hstage
    obtain ⟨n, rfl⟩ : ∃ n, left = n + 1 := Nat.exists_eq_succ_of_ne_zero fun hzero => hstage (congrArg _ hzero)
    obtain ⟨bit, rfl⟩ : ∃ bit, i = symbolToken bit := by
      obtain ⟨b, -, ⟨-, rfl⟩ | ⟨-, rfl⟩⟩ := decodeSymbolToken_ok h
      · exact ⟨false, rfl⟩
      · exact ⟨true, rfl⟩
    exact ⟨_, by rw [exec_symbolToken hwf, takeSymbol_payload hst]⟩

/-! ### From the token to the step -/

/-- The consumer's turn, from a state of the invariant without a truncation, waits or executes a token: it is not
refused (R34, R107). -/
theorem fetchToken_not_refused {s : State} (hinv : Inv s) (hcut : s.consumer.cut = none) (r : Refusal) :
    fetchToken s ≠ .refused r := by
  intro h
  obtain ⟨-, -, hlink, -⟩ := hinv
  obtain ⟨hadmits, -⟩ := hlink hcut
  have hall : admitted s.consumer = s.consumer.inbox := by rw [admitted, hcut]
  rw [← hall] at hadmits
  unfold fetchToken at h
  split at h
  next => cases h
  next =>
    rw [hall, if_neg (lt_irrefl _)] at h
    cases h
  next why hshort hdecode => exact hshort (decode_error_of_admits hadmits hdecode)

/-- Nothing that is fetched is refused as the wire's. -/
theorem fetch_not_wireRefusal {x : Transaction} {s : State} {r : Refusal} (hinv : Inv s)
    (hcut : s.consumer.cut = none) (h : fetch x s = .refused r) : ¬ WireRefusal r := by
  unfold fetch at h
  split at h
  · split at h
    · exact absurd h (fetchToken_not_refused hinv hcut r)
    · cases h
      exact id
  · unfold fetchTransaction at h
    split at h <;> cases h <;> exact id

theorem runTransaction_not_wireRefusal {x : Transaction} {s : State} {r : Refusal} (hinv : Inv s)
    (hcut : s.consumer.cut = none) (h : runTransaction x s = .refused r) : ¬ WireRefusal r := by
  unfold runTransaction at h
  split at h
  next i s₁ hfetch =>
    obtain ⟨hwf, -, hlink, -⟩ := hinv
    obtain ⟨hport, hdecode, rfl⟩ | ⟨-, rest, hdecode, rfl⟩ := fetch_ready hfetch
    · exact exec_not_wireRefusal hwf (by rwa [decode_port hdecode]) h
    · obtain ⟨t, ht⟩ := exec_decoded_token (s := withConsumer s (takeBytes s.consumer _)) hwf
        (stage_ne_payload_zero (hlink hcut).1) hdecode
      cases ht.symm.trans h
  next => cases h
  next hfetch =>
    cases h
    exact fetch_not_wireRefusal hinv hcut hfetch

theorem takeBytes_cut (c : Consumer) (n : Nat) : (takeBytes c n).cut = c.cut := rfl

/-- Only RESET marks a truncation (R102). -/
theorem exec_cut {s t : State} {i : Instr} (hport : i.port ≠ .rst) (h : exec i s = .next t) :
    t.consumer.cut = s.consumer.cut := by
  obtain rfl | ⟨colors, rfl⟩ | ⟨rfl, -⟩ | hwire | ⟨-, rfl⟩ | ⟨r, rfl⟩ := exec_next_cases h
  · rw [(exec_emitByte_moves_owed h).1]
  · rw [(exec_submitFrame_frame h).1]
  · exact absurd rfl hport
  · obtain ⟨bits, rfl⟩ := exec_token_next hwire h
    rfl
  · rfl
  · rfl

theorem runTransaction_cut {x : Transaction} {s t : State} (hport : x.port ≠ .rst)
    (h : runTransaction x s = .next t) : t.consumer.cut = s.consumer.cut := by
  obtain rfl | ⟨i, s₁, hfetch, hexec⟩ := runTransaction_next h
  · rfl
  obtain ⟨-, hdecode, rfl⟩ | ⟨-, rest, hdecode, rfl⟩ := fetch_ready hfetch
  · exact exec_cut (by rwa [decode_port hdecode]) hexec
  · have htoken : i.port ≠ .rst := ne_of_eq_of_ne (decode_port hdecode) Port.noConfusion
    exact (exec_cut htoken hexec).trans (takeBytes_cut _ _)

/-- A slot in which no RESET comes before another operation is not refused as the wire's. -/
theorem runAll_not_wireRefusal {slot : Slot} {s : State} {r : Refusal} (hslot : ∀ x ∈ slot.dropLast, x.port ≠ .rst)
    (hinv : Inv s) (hcut : s.consumer.cut = none) (h : runAll slot s = .refused r) : ¬ WireRefusal r := by
  induction slot generalizing s with
  | nil => cases h
  | cons x xs ih =>
    rw [runAll] at h
    split at h
    next s₁ hx =>
      cases xs with
      | nil => cases h
      | cons y ys =>
        obtain ⟨hport, hrest⟩ := List.forall_mem_cons.1 hslot
        exact ih hrest (runTransaction_keeps_inv hinv hx) ((runTransaction_cut hport hx).trans hcut) h
    next => cases h
    next hx =>
      cases h
      exact runTransaction_not_wireRefusal hinv hcut hx

/-- A RESET is the last operation that is taken of its slot (R92). -/
theorem arbitrate_dropLast_no_reset (slot : Slot) : ∀ x ∈ (arbitrate slot).dropLast, x.port ≠ .rst := by
  intro x hx
  by_cases hreset : ∃ t ∈ slot, t.port = .rst
  · obtain ⟨r, -, -, harbitrate⟩ := arbitrate_of_reset hreset
    rw [harbitrate, List.dropLast_concat] at hx
    have hstatus : x.port = .status := of_decide_eq_true (List.mem_filter.1 hx).2
    simp [hstatus]
  · have hnone : ∀ t ∈ slot, t.port ≠ .rst := by simpa using hreset
    have hmem := List.mem_of_mem_dropLast hx
    rw [arbitrate_of_no_reset hnone, List.mem_append, List.mem_filter, List.mem_filter] at hmem
    exact hnone x (hmem.elim And.left And.left)

/-- With nothing offered, the only operation is a submission (log 9). -/
theorem idleStep_not_wireRefusal {s : State} {r : Refusal} (hinv : Inv s) (h : idleStep s = .refused r) :
    ¬ WireRefusal r := by
  obtain ⟨hwf, -⟩ := hinv
  unfold idleStep at h
  split at h
  · split at h
    · exact exec_not_wireRefusal hwf Port.noConfusion h
    · cases h
  · cases h

theorem step_not_wireRefusal {s : State} {r : Refusal} (hinv : Inv s) (hcut : s.consumer.cut = none)
    (h : step s = .refused r) : ¬ WireRefusal r := by
  rw [step, takeStep] at h
  split at h
  next => exact idleStep_not_wireRefusal hinv h
  next slot rest _ => exact runAll_not_wireRefusal (s := withScript s rest) (arbitrate_dropLast_no_reset slot) hinv hcut h

/-- Settles O31: none of the three refusals of the wire is given. -/
theorem consumerKeepsCommandBoundary : Obligations.ConsumerKeepsCommandBoundary := by
  intro s hinv hcut
  exact ⟨fun why h => step_not_wireRefusal hinv hcut h trivial, fun h => step_not_wireRefusal hinv hcut h trivial,
    fun h => step_not_wireRefusal hinv hcut h trivial⟩

end Sys2Proof.Machine
